-- ==== Sys2Proof/Word.lean ====
section
/-!
DEFINITION. The word types of MT19937-CORE: the 32-bit word every datapath value has (00_scope.md R7), the byte, and
the 64-bit word a command token or a response is (30_encoding.md R42, R48).
-/

namespace Sys2Proof

/-- `u32`: an unsigned 32-bit word (R7). -/
abbrev Word := BitVec 32

/-- One byte of a token or response stored as bytes (R29). -/
abbrev Byte := BitVec 8

/-- A 64-bit command token, or a 64-bit response (R42, R48). -/
abbrev Token := BitVec 64

/-- `u32(n)`: a natural number reduced modulo 2^32 (R7). -/
def u32 (n : Nat) : Word := BitVec.ofNat 32 n

end Sys2Proof
end

