-- ==== Sys2Proof/Syntax.lean ====
section
/-!
DEFINITION. The seven commands of MT19937-CORE (30_encoding.md R44), one constructor per row of spec/opcode_table.json.
Only SEEDS and KPUSH have an operand; the ARG field of the other five selects nothing (R43, R46), so their constructors
carry none.
-/

namespace Sys2Proof

inductive Instr where
  /-- `SEEDS seed`: seed from a scalar (R62). -/
  | seeds (seed : Word)
  /-- `KCLR`: clear the key buffer (R63). -/
  | kclr
  /-- `KPUSH key`: append one key (R64). -/
  | kpush (key : Word)
  /-- `SEEDA`: seed from the key sequence (R65). -/
  | seeda
  /-- `DRAW`: the next 32-bit output word (R75). -/
  | draw
  /-- `DRAW31`: the next output word shifted right by one (R76). -/
  | draw31
  /-- `RDSTAT`: the status word (R78). -/
  | rdstat
  deriving DecidableEq, Repr

end Sys2Proof
end

