-- ==== Sys2Proof/WellFormed.lean ====
section
/-!
DEFINITION. What is well formed. Of an instruction: every constructor with every operand is, because ARG is used
unchanged and any 32-bit value is a seed or a key (R43, R62, R64). Of a token, before it is decoded: its reserved bits are
zero and its opcode is assigned (R44, R46). The decoder does not use these; an obligation compares the two.
-/

namespace Sys2Proof

/-- Every instruction is well formed: SEEDS and KPUSH admit every 32-bit ARG (R43), the others have no operand. -/
def Instr.wellFormed : Instr → Bool
  | .seeds _ => true
  | .kclr => true
  | .kpush _ => true
  | .seeda => true
  | .draw => true
  | .draw31 => true
  | .rdstat => true

/-- The RSV field of a token is zero (R42). -/
def reservedBitsZero (t : Token) : Bool := t.extractLsb' 8 24 == 0#24

/-- The OPC field of a token is one of the seven assigned opcodes, 0x01 to 0x07 (R44). -/
def opcodeAssigned (t : Token) : Bool :=
  decide (1 ≤ (t.extractLsb' 0 8).toNat) && decide ((t.extractLsb' 0 8).toNat ≤ 7)

/-- A token is well formed when both checks hold; every other token is ILLEGAL_COMMAND (R46). -/
def tokenWellFormed (t : Token) : Bool := reservedBitsZero t && opcodeAssigned t

end Sys2Proof
end

