-- ==== Sys2Proof/Decode.lean ====
section
/-!
DEFINITION. The command token: its fields, the decoder (30_encoding.md R45, total on 64-bit values and rejecting by
name), the encoder from the same table (R42, R44, R49), and the byte form of a token or response (20_memory.md R29).
-/

namespace Sys2Proof

/-- `OPC`, bits 7:0 of a token (R42). -/
def opcField (t : Token) : BitVec 8 := t.extractLsb' 0 8

/-- `RSV`, bits 31:8 of a token (R42). -/
def rsvField (t : Token) : BitVec 24 := t.extractLsb' 8 24

/-- `ARG`, bits 63:32 of a token, used unchanged (R42, R43). -/
def argField (t : Token) : Word := t.extractLsb' 32 32

/-- Why a token is illegal (R46). The reason is descriptive only and is never returned to the host (R10). -/
inductive IllegalToken where
  /-- RSV is not zero. -/
  | reservedBits
  /-- RSV is zero and OPC is 0x00 or 0x08..0xFF. -/
  | reservedOpcode
  deriving DecidableEq, Repr

/-- What a token is (R45): exactly one command, or illegal. -/
inductive Decoded where
  | command (i : Instr)
  | illegal (why : IllegalToken)
  deriving DecidableEq, Repr

/-- The command an opcode selects, or that it is reserved (R44). -/
def decodeOpcode (opc : BitVec 8) (arg : Word) : Decoded :=
  match opc.toNat with
  | 1 => .command (.seeds arg)
  | 2 => .command .kclr
  | 3 => .command (.kpush arg)
  | 4 => .command .seeda
  | 5 => .command .draw
  | 6 => .command .draw31
  | 7 => .command .rdstat
  | _ => .illegal .reservedOpcode

/-- Decoding a token, RSV before OPC (R45). -/
def decode (t : Token) : Decoded :=
  if rsvField t ≠ 0#24 then .illegal .reservedBits
  else decodeOpcode (opcField t) (argField t)

/-- The opcode of a command (R44). -/
def opcodeOf : Instr → BitVec 8
  | .seeds _ => 0x01#8
  | .kclr => 0x02#8
  | .kpush _ => 0x03#8
  | .seeda => 0x04#8
  | .draw => 0x05#8
  | .draw31 => 0x06#8
  | .rdstat => 0x07#8

/-- The ARG an encoder writes: the operand of SEEDS and KPUSH, 0 for the other five (R49). -/
def operandOf : Instr → Word
  | .seeds seed => seed
  | .kclr => 0#32
  | .kpush key => key
  | .seeda => 0#32
  | .draw => 0#32
  | .draw31 => 0#32
  | .rdstat => 0#32

/-- The token of a command: ARG, then RSV = 0, then OPC (R42). -/
def encode (i : Instr) : Token := operandOf i ++ 0#24 ++ opcodeOf i

/-- The eight bytes of a 64-bit word in little-endian order, byte `k` holding bits 8k+7:8k (R29). -/
def wordBytes (t : Token) : List Byte :=
  [t.extractLsb' 0 8, t.extractLsb' 8 8, t.extractLsb' 16 8, t.extractLsb' 24 8,
   t.extractLsb' 32 8, t.extractLsb' 40 8, t.extractLsb' 48 8, t.extractLsb' 56 8]

/-- The first 64-bit word of a byte sequence, least significant byte first, and the bytes after it; none where fewer
than eight bytes are left, since every token is 64 bits (R29, R47). -/
def wordOfBytes : List Byte → Option (Token × List Byte)
  | b0 :: b1 :: b2 :: b3 :: b4 :: b5 :: b6 :: b7 :: rest =>
    some (b7 ++ b6 ++ b5 ++ b4 ++ b3 ++ b2 ++ b1 ++ b0, rest)
  | _ => none

/-- What a stored command buffer begins with. -/
inductive StoredCommand where
  /-- a legal token, and the bytes after it -/
  | command (i : Instr) (rest : List Byte)
  /-- a whole token that is illegal, and the bytes after it -/
  | illegal (why : IllegalToken) (rest : List Byte)
  /-- fewer than eight bytes: no whole token -/
  | truncated
  deriving DecidableEq, Repr

/-- Decoding the first token of a stored command buffer (R29, R45, R47), total on any bytes. -/
def decodeBytes (bytes : List Byte) : StoredCommand :=
  match wordOfBytes bytes with
  | none => .truncated
  | some (t, rest) =>
    match decode t with
    | .command i => .command i rest
    | .illegal why => .illegal why rest

/-- The token whose low `nbits` bits are those of `w`, the rest zero, as the opcode table numbers them. -/
def tableToken (nbits w : Nat) : Token := BitVec.ofNat 64 (w % 2 ^ nbits)

/-- What the decoder reads from the token whose bits are `w`: stored as its eight little-endian bytes (R29) and
decoded. -/
def decodeTableWord (nbits w : Nat) : Option Instr :=
  match decodeBytes (wordBytes (tableToken nbits w)) with
  | .command i _ => some i
  | .illegal _ _ => none
  | .truncated => none

end Sys2Proof
end

