-- ==== Sys2Proof/Config.lean ====
section
/-!
DEFINITION. What an implementation fixes and the spec leaves open (00_scope.md R6), and the free values. Nothing here
has a value that Lean can see, but for the range of KEY_MAX, which the spec states (10_state.md R16).
-/

namespace Sys2Proof.Config

/-- The open choice behind `KEY_MAX` (R6, log 5). -/
opaque keyMaxRaw : Nat

/-- `KEY_MAX`, the capacity of the key buffer in words: any number from 4 to 65535, and every such number is some
implementation's (R6, R16, D7; log 5). Written as a sum so that the kernel sees that it is at least 4. -/
def keyMax : Nat := keyMaxRaw % 65532 + 4

/-- FREE VALUE (log 3): word `i` of `STATE` after the reset that arrives when `n` resets came before it during the
run. R26, R105 and R106 leave it unspecified. -/
opaque freeStateWord (n i : Nat) : Word

/-- FREE VALUE (log 4): word `j` of `KEYBUF` after the reset that arrives when `n` resets came before it during the
run. R26 leaves it unspecified. -/
opaque freeKeyWord (n j : Nat) : Word

/-- The open choice behind the latencies `LAT_*` (R110), one per case. -/
opaque latencyRaw (caseNumber keyCount : Nat) : Nat

end Sys2Proof.Config
end

