-- ==== Sys2Proof/Machine/State.lean ====
section
/-!
DEFINITION. The machine's state as plain data (10_state.md R12; the port of 70_reset_and_hazards.md R108), why a step can
stop, and the state right after reset (R26, R105).
-/

namespace Sys2Proof.Machine

/-- `STATE`, the state vector: always exactly 624 words (R13). -/
abbrev StateVec := Vector Word 624

/-- The port's inputs at one event (R108). `cmd` is `cmd_valid` with `cmd_token`, marked with the number of the host
that offers the token (R41, log 10). -/
structure PortIn where
  rst : Bool
  cmd : Option (Nat × Token)
  rspReady : Bool
  deriving DecidableEq, Repr

structure State where
  /-- `STATE` (R12, R13). -/
  stateVec : StateVec
  /-- `CURSOR`, 0..625 in ten bits (R14). -/
  cursor : BitVec 10
  /-- `KEYBUF` (R16): the words written since the last reset, by rising index (log 19). -/
  keyBuf : List (Nat × Word)
  /-- `KEYLEN` (R17). -/
  keyLen : BitVec 16
  /-- the response waiting to be taken: `rsp_valid` with `rsp_word` (R108, R109) -/
  rsp : Option Token
  /-- the host whose token was accepted last (R41) -/
  owner : Nat
  /-- the port's inputs still to come, the host's (R118, log 6) -/
  inputs : List PortIn
  /-- `CMDIDX`, a property of the host's stream (R19, log 8) -/
  cmdIdx : Nat
  /-- the responses transferred so far with the host each went to, oldest first: the observation of a run (R111) -/
  delivered : List (Nat × Token)
  /-- the model's own counter: how many resets arrived during the run, for the free values of log 3 and log 4 -/
  resets : Nat
  deriving DecidableEq, Repr

/-- Why the machine stops with a fault: never. The block has no trap, no fatal and no stuck condition (R88, R93), so no
reason exists and no step answers one. -/
inductive Fault where
  deriving DecidableEq, Repr

inductive Refusal where
  /-- Raised by an arm of `exec` whose instruction has no meaning yet, and by nothing else. Safe: the model stops. -/
  | notModelled (mnemonic : String)
  deriving DecidableEq, Repr

/-- The machine right after reset (R26, R105): CURSOR 625, KEYLEN 0, no response pending. The words of STATE (log 1)
and of KEYBUF (log 2) are the model's choice; the host's fields are empty (log 6, log 17). -/
def State.reset : State where
  stateVec := Vector.replicate 624 0#32
  cursor := 625#10
  keyBuf := []
  keyLen := 0#16
  rsp := none
  owner := 0
  inputs := []
  cmdIdx := 0
  delivered := []
  resets := 0

/-- What a step answers. -/
abbrev Result := Host.Outcome State Fault Refusal

end Sys2Proof.Machine
end

