-- ==== Sys2Proof/Machine/Operands.lean ====
section
/-!
DEFINITION. The wired constants (40_datapath.md R52) and the arithmetic on one word: fold30 (R56), mix (R57), temper
(R70), and the word a twist step makes (R66, R67). Every operation is on 32-bit words and wraps (R8, R54). The one
operand form of a command, ARG, is `argField` of Decode.lean.
-/

namespace Sys2Proof.Machine

/-- `N`, the state size (R52). -/
abbrev N : Nat := 624
/-- `M`, the shift distance (R52). -/
abbrev M : Nat := 397
/-- `MATRIX_A` (R52). -/
def matrixA : Word := 2567483615#32
/-- `UPPER_MASK` (R52). -/
def upperMask : Word := 0x80000000#32
/-- `LOWER_MASK` (R52). -/
def lowerMask : Word := 0x7FFFFFFF#32
/-- `ARRAY_BASE_SEED` (R52). -/
def arrayBaseSeed : Word := 19650218#32
/-- `K_SCALAR` (R52). -/
def kScalar : Word := 1812433253#32
/-- `K_PASS1` (R52). -/
def kPass1 : Word := 1664525#32
/-- `K_PASS2` (R52). -/
def kPass2 : Word := 1566083941#32
/-- `DEFAULT_SEED` (R52). -/
def defaultSeed : Word := 5489#32
/-- `ARRAY_STATE0` (R52). -/
def arrayState0 : Word := 0x80000000#32

/-- `fold30(x)` (R56): the top two bits XORed into the low two. -/
def fold30 (x : Word) : Word := x ^^^ (x >>> 30)

/-- `mix(s, k)` in the split form of R57: the two 16-bit halves are multiplied and the products added (D11). -/
def mix (s k : Word) : Word :=
  let hi : Word := (s.extractLsb' 16 16).setWidth 32
  let lo : Word := (s.extractLsb' 0 16).setWidth 32
  ((hi * k) <<< 16) + lo * k

/-- `temper(y)` (R70). -/
def temper (y0 : Word) : Word :=
  let y1 := y0 ^^^ (y0 >>> 11)
  let y2 := y1 ^^^ ((y1 <<< 7) &&& 0x9D2C5680#32)
  let y3 := y2 ^^^ ((y2 <<< 15) &&& 0xEFC60000#32)
  y3 ^^^ (y3 >>> 18)

/-- The word one iteration of the twist stores (R66): `cur` is the word at kk, `nxt` the word at kk + 1 and `far` the
word at kk + M, all modulo N. -/
def twistWord (cur nxt far : Word) : Word :=
  let y := (cur &&& upperMask) ||| (nxt &&& lowerMask)
  let mag := if y.getLsbD 0 then matrixA else 0#32
  far ^^^ (y >>> 1) ^^^ mag

end Sys2Proof.Machine
end

