-- ==== Sys2Proof/Machine/Flags.lean ====
section
/-!
DEFINITION. The block has no flags (10_state.md R20); what carries an outcome is the response. Here: the response codes
(60_exceptions.md R89), the response word (30_encoding.md R48) and the status word (43_status.md R77).
-/

namespace Sys2Proof.Machine

/-- The response codes; no other is ever produced (R89). -/
inductive RspCode where
  | ok
  | invalidSeed
  | keyOverflow
  | illegalCommand
  deriving DecidableEq, Repr

/-- The `CODE` byte of a response code (R89). -/
def codeByte : RspCode → Byte
  | .ok => 0x00#8
  | .invalidSeed => 0x01#8
  | .keyOverflow => 0x02#8
  | .illegalCommand => 0x03#8

/-- The response word: DATA, then 24 zero bits, then CODE (R48). -/
def responseWord (code : RspCode) (data : Word) : Token := data ++ 0#24 ++ codeByte code

/-- `DATA`, bits 63:32 of a response (R48). -/
def dataField (r : Token) : Word := r.extractLsb' 32 32

/-- `CODE`, bits 7:0 of a response (R48). -/
def codeField (r : Token) : Byte := r.extractLsb' 0 8

/-- The status word of a cursor and a key count (R77, R78): KEYLEN in 31:16, SEEDED in 10, CURSOR in 9:0. -/
def statusWord (cursor : BitVec 10) (keyLen : BitVec 16) : Word :=
  (keyLen.setWidth 32 <<< 16) ||| (if cursor ≠ 625#10 then 1#32 <<< 10 else 0#32) ||| cursor.setWidth 32

end Sys2Proof.Machine
end

