-- ==== Sys2Proof/Machine/Ops.lean ====
section
/-!
DEFINITION. The named operations over the state: one update per field, the loop of the pseudocode (00_scope.md R11),
the two word spaces (20_memory.md R27), the response and the error response (R10), reset (70_reset_and_hazards.md
R105), and the datapath procedures SeedScalar (R59), SeedArray (R60), Twist (R66) and Draw (R73).
-/

namespace Sys2Proof.Machine

/-! ## One update per field

The loop, the long passes (seedVec, seedArrayVec, twistVec) and unspecifiedVec are marked irreducible, so that no elaborator runs
their 624 iterations while it compares two states; the kernel still evaluates them. -/

def State.setStateVec (s : State) (v : StateVec) : State := { s with stateVec := v }
def State.setCursor (s : State) (c : BitVec 10) : State := { s with cursor := c }
def State.setKeyBuf (s : State) (k : List (Nat × Word)) : State := { s with keyBuf := k }
def State.setKeyLen (s : State) (n : BitVec 16) : State := { s with keyLen := n }
def State.setRsp (s : State) (r : Option Token) : State := { s with rsp := r }
def State.setOwner (s : State) (h : Nat) : State := { s with owner := h }
def State.setInputs (s : State) (l : List PortIn) : State := { s with inputs := l }
def State.setCmdIdx (s : State) (n : Nat) : State := { s with cmdIdx := n }
def State.setDelivered (s : State) (l : List (Nat × Token)) : State := { s with delivered := l }
def State.setResets (s : State) (n : Nat) : State := { s with resets := n }

/-! ## The loop of the pseudocode -/

/-- `count` iterations of a loop body, the index starting at `a` and rising by one. -/
@[irreducible] def forCount {α : Type} : Nat → Nat → (Nat → α → α) → α → α
  | 0, _, _, x => x
  | count + 1, a, body, x => forCount count (a + 1) body (body a x)

/-- `for i in [a, b)` in increasing order (R11). -/
def forRange {α : Type} (a b : Nat) (body : Nat → α → α) (x : α) : α := forCount (b - a) a body x

/-! ## The state vector -/

/-- `STATE[i]` (R9). Every index a rule computes is below 624 (R30); beyond, the read is total and answers 0 (log 12). -/
def stateRead (v : StateVec) (i : Nat) : Word := if h : i < 624 then v[i] else 0#32

/-- `STATE[i] <- w` (R9). Every index a rule computes is below 624 (R30); beyond, nothing is written (log 12). -/
def stateWrite (v : StateVec) (i : Nat) (w : Word) : StateVec := if h : i < 624 then v.set i w else v

/-! ## The key buffer -/

/-- What a key-buffer word that nothing has written since the last reset reads as, `resets` resets having arrived
during the run: 0 after State.reset (log 2), a free value after any later one (log 4). R16: no rule reads it. -/
def keyFill : Nat → Nat → Word
  | 0, _ => 0#32
  | n + 1, j => Config.freeKeyWord n j

/-- The listed word at index `j`, if there is one. -/
def keyLookup : List (Nat × Word) → Nat → Option Word
  | [], _ => none
  | (i, w) :: rest, j => if i = j then some w else keyLookup rest j

/-- The list with word `w` at index `j`, at its place among rising indices. -/
def keyInsert (j : Nat) (w : Word) : List (Nat × Word) → List (Nat × Word)
  | [] => [(j, w)]
  | (i, u) :: rest =>
    if j < i then (j, w) :: (i, u) :: rest
    else if j = i then (j, w) :: rest
    else (i, u) :: keyInsert j w rest

/-- `KEYBUF[j]` (R9, R16). -/
def keyRead (s : State) (j : Nat) : Word := (keyLookup s.keyBuf j).getD (keyFill s.resets j)

/-- `KEYBUF[j] <- w` (R9, R16). -/
def keyWrite (s : State) (j : Nat) (w : Word) : State := s.setKeyBuf (keyInsert j w s.keyBuf)

/-- The canonical form of the key buffer's list: indices strictly rising, so no index twice (log 19). -/
def keysRising : List (Nat × Word) → Bool
  | [] => true
  | [_] => true
  | (i, _) :: (j, w) :: rest => decide (i < j) && keysRising ((j, w) :: rest)

/-! ## Responding, and the one error response -/

/-- `respond(code, data)` (R10): the response waits at the port. -/
def respond (code : RspCode) (data : Word) (s : State) : State := s.setRsp (some (responseWord code data))

/-- `raise E` (R10, R88, R95): the error response, with DATA 0 and nothing else written. This is all the block has of
taking an exception; nothing is saved and nothing is returned from (R96). -/
def raise (code : RspCode) (s : State) : State := respond code 0#32 s

/-! ## Reset -/

/-- `STATE` after the reset that arrives when `n` resets came before it: every word a free value (R26, log 3). -/
@[irreducible] def unspecifiedVec (n : Nat) : StateVec := Vector.ofFn (fun i : Fin 624 => Config.freeStateWord n i.val)

/-- The reset input asserted at an event (R105, R106): CURSOR 625, KEYLEN 0, no response pending, so that a command
whose response has not transferred is abandoned. STATE and KEYBUF are then unspecified: free values (log 3, log 4).
The host's fields stay (log 9). -/
def applyReset (s : State) : State :=
  { s with
    stateVec := unspecifiedVec s.resets
    cursor := 625#10
    keyBuf := []
    keyLen := 0#16
    rsp := none
    resets := s.resets + 1 }

/-! ## SeedScalar -/

/-- One iteration of SeedScalar (R59). -/
def seedBody (i : Nat) (v : StateVec) : StateVec :=
  stateWrite v i (mix (fold30 (stateRead v (i - 1))) kScalar + u32 i)

/-- The state vector SeedScalar leaves (R59). -/
@[irreducible] def seedVec (seed : Word) (v : StateVec) : StateVec := forRange 1 N seedBody (stateWrite v 0 seed)

/-- `SeedScalar(seed)` (R59). -/
def seedScalar (seed : Word) (s : State) : State := (s.setStateVec (seedVec seed s.stateVec)).setCursor 624#10

/-! ## SeedArray -/

/-- What the two mixing passes carry: the state vector and the transient indices i and j (R22, R60). -/
structure MixPass where
  vec : StateVec
  i : Nat
  j : Nat
  deriving DecidableEq, Repr

/-- `i <- i + 1`, and when i reaches N the copy of the last word into word 0 and the wrap to 1 (R60). -/
def advanceIndex (v : StateVec) (i : Nat) : StateVec × Nat :=
  if N ≤ i + 1 then (stateWrite v 0 (stateRead v (N - 1)), 1) else (v, i + 1)

/-- One iteration of pass 1 over the keys `key 0 .. key (len - 1)` (R60). -/
def pass1Body (key : Nat → Word) (len : Nat) (_k : Nat) (p : MixPass) : MixPass :=
  let s := fold30 (stateRead p.vec (p.i - 1))
  let v := stateWrite p.vec p.i ((stateRead p.vec p.i ^^^ mix s kPass1) + key p.j + u32 p.j)
  let next := advanceIndex v p.i
  { vec := next.1, i := next.2, j := if len ≤ p.j + 1 then 0 else p.j + 1 }

/-- One iteration of pass 2 (R60). -/
def pass2Body (_k : Nat) (p : MixPass) : MixPass :=
  let s := fold30 (stateRead p.vec (p.i - 1))
  let v := stateWrite p.vec p.i ((stateRead p.vec p.i ^^^ mix s kPass2) - u32 p.i)
  let next := advanceIndex v p.i
  { vec := next.1, i := next.2, j := p.j }

/-- The state vector SeedArray leaves, from the one its SeedScalar left (R60); pass 2 goes on with pass 1's i (D12). -/
@[irreducible] def seedArrayVec (key : Nat → Word) (len : Nat) (base : StateVec) : StateVec :=
  let p1 := forRange 0 (max N len) (pass1Body key len) { vec := base, i := 1, j := 0 }
  let p2 := forRange 0 (N - 1) pass2Body p1
  stateWrite p2.vec 0 arrayState0

/-- `SeedArray(L)` (R60). -/
def seedArray (len : Nat) (s : State) : State :=
  let b := seedScalar arrayBaseSeed s
  b.setStateVec (seedArrayVec (keyRead b) len b.stateVec)

/-! ## Twist and Draw -/

/-- One iteration of the twist, in place (R66, R69). -/
def twistBody (kk : Nat) (v : StateVec) : StateVec :=
  stateWrite v kk (twistWord (stateRead v kk) (stateRead v ((kk + 1) % N)) (stateRead v ((kk + M) % N)))

/-- The state vector the pass of the twist leaves (R66). -/
@[irreducible] def twistVec (v : StateVec) : StateVec := forRange 0 N twistBody v

/-- `Twist()` (R66): the fallback seed at the sentinel, the pass, CURSOR 0. -/
def twist (s : State) : State :=
  let b := if s.cursor = 625#10 then seedScalar defaultSeed s else s
  (b.setStateVec (twistVec b.stateVec)).setCursor 0#10

/-- The twist a draw starts with when it finds CURSOR >= N, and only then (R72). -/
def lazyTwist (s : State) : State := if N ≤ s.cursor.toNat then twist s else s

/-- `Draw()` (R73): the tempered word, and the state with the cursor advanced. -/
def draw (s : State) : Word × State :=
  let b := lazyTwist s
  (temper (stateRead b.stateVec b.cursor.toNat), b.setCursor (b.cursor + 1#10))

end Sys2Proof.Machine
end

