-- ==== Sys2Proof/Machine/Draw.lean ====
section
/-!
DEFINITION. The draw family (42_twist_and_draw.md): DRAW, DRAW31.
-/

namespace Sys2Proof.Machine

/-- `DRAW` (R75). -/
def execDraw (s : State) : Result := .next (respond .ok (draw s).1 (draw s).2)

/-- `DRAW31` (R76): the same word shifted right by one. -/
def execDraw31 (s : State) : Result := .next (respond .ok ((draw s).1 >>> 1) (draw s).2)

end Sys2Proof.Machine
end

