-- ==== Sys2Proof/Machine/Seeding.lean ====
section
/-!
DEFINITION. The seeding family (41_seeding.md): SEEDS, KCLR, KPUSH, SEEDA.
-/

namespace Sys2Proof.Machine

/-- `SEEDS seed` (R62). -/
def execSeeds (seed : Word) (s : State) : Result := .next (respond .ok 0#32 (seedScalar seed s))

/-- `KCLR` (R63): only KEYLEN is written. -/
def execKclr (s : State) : Result := .next (respond .ok 0#32 (s.setKeyLen 0#16))

/-- `KPUSH key` (R64): KEY_OVERFLOW when the buffer is full, else the key at index KEYLEN. -/
def execKpush (key : Word) (s : State) : Result :=
  if s.keyLen.toNat = Config.keyMax then .next (raise .keyOverflow s)
  else .next (respond .ok 0#32 ((keyWrite s s.keyLen.toNat key).setKeyLen (s.keyLen + 1#16)))

/-- `SEEDA` (R65): INVALID_SEED from an empty key sequence, else array seeding. -/
def execSeeda (s : State) : Result :=
  if s.keyLen = 0#16 then .next (raise .invalidSeed s)
  else .next (respond .ok 0#32 (seedArray s.keyLen.toNat s))

end Sys2Proof.Machine
end

