-- ==== Sys2Proof/Machine/Status.lean ====
section
/-!
DEFINITION. The status family (43_status.md): RDSTAT.
-/

namespace Sys2Proof.Machine

/-- `RDSTAT` (R78): nothing is written but the response. -/
def execRdstat (s : State) : Result := .next (respond .ok (statusWord s.cursor s.keyLen) s)

end Sys2Proof.Machine
end

