-- ==== Sys2Proof/Machine/Dispatch.lean ====
section
/-!
DEFINITION. One arm per command (30_encoding.md R44).
-/

namespace Sys2Proof.Machine

def exec (i : Instr) (s : State) : Host.Outcome State Fault Refusal :=
  match i with
  | .seeds seed => Sys2Proof.Machine.execSeeds seed s
  | .kclr => Sys2Proof.Machine.execKclr s
  | .kpush key => Sys2Proof.Machine.execKpush key s
  | .seeda => Sys2Proof.Machine.execSeeda s
  | .draw => Sys2Proof.Machine.execDraw s
  | .draw31 => Sys2Proof.Machine.execDraw31 s
  | .rdstat => Sys2Proof.Machine.execRdstat s

end Sys2Proof.Machine
end

