-- ==== Sys2Proof/Machine/Port.lean ====
section
/-!
DEFINITION. The port at the transaction level (70_reset_and_hazards.md R108, R109): its outputs, what happens to a token
the block accepts, and one event. The block fetches nothing (R39): accepting a token is its only way to an instruction.
-/

namespace Sys2Proof.Machine

/-- `cmd_ready`: the block is idle, no response waiting to be taken (R109). -/
def cmdReady (s : State) : Bool := s.rsp.isNone

/-- `rsp_valid` (R108). -/
def rspValid (s : State) : Bool := s.rsp.isSome

/-- `rsp_word`, while `rsp_valid` is 1 (R108). -/
def rspWord (s : State) : Option Token := s.rsp

/-- An accepted token, executed whole (R35): decode comes first (R94), and an illegal token answers ILLEGAL_COMMAND and
writes nothing (R46, R92). -/
def runToken (t : Token) (s : State) : Result :=
  match decode t with
  | .command i => exec i s
  | .illegal _ => .next (raise .illegalCommand s)

/-- The pending response `r` transfers to the host it belongs to (R41, R108), and the command is then complete: CMDIDX
advances by one whatever the code (R19, log 8). -/
def deliver (r : Token) (s : State) : State :=
  ((s.setRsp none).setDelivered (s.delivered ++ [(s.owner, r)])).setCmdIdx (s.cmdIdx + 1)

/-- One event at the port: reset before everything (R94, R105); then a pending response transfers or stalls the block,
and no token is accepted at that event (R109, log 18); then an offered token is accepted; else nothing changes (R104). -/
def portEvent (e : PortIn) (s : State) : Result :=
  if e.rst then .next (applyReset s)
  else match s.rsp with
    | some r => if e.rspReady then .next (deliver r s) else .next s
    | none =>
      match e.cmd with
      | some (host, t) => runToken t (s.setOwner host)
      | none => .next s

/-- The next event of the inputs; with none left nothing changes (R104, log 16). -/
def nextEvent (s : State) : Result :=
  match s.inputs with
  | [] => .next s
  | e :: rest => portEvent e (s.setInputs rest)

/-- The event at which host 0 offers token `t` and takes the response when there is one. -/
def offer (t : Token) : PortIn := { rst := false, cmd := some (0, t), rspReady := true }

end Sys2Proof.Machine
end

