-- ==== Sys2Proof/Machine/Step.lean ====
section
/-!
DEFINITION. One step of the machine: one event at the port.
-/

namespace Sys2Proof.Machine

/-- One step. -/
def step (s : State) : Host.Outcome State Fault Refusal := nextEvent s

/-- `s` with the token whose bits are `w` offered at the very next event, and the port ready to accept it: no response
is pending (R109, log 6). -/
def State.withFetchWord (s : State) (nbits w : Nat) : State :=
  (s.setRsp none).setInputs (offer (Sys2Proof.tableToken nbits w) :: s.inputs)

end Sys2Proof.Machine
end

