-- ==== Sys2Proof/Machine/Assembler.lean ====
section
/-!
DEFINITION. The assembly syntax of the command stream (30_encoding.md R49) and its pseudo-instructions (R50), from text to
tokens. Text is a list of characters. The assembler is the host's; no step of the machine calls it. What R49
and R50 leave to the reader of a line (white space, empty lines, the case of the pseudo-instructions and directives, the form
of the count of .rep, nesting) is log 14.
-/

namespace Sys2Proof.Machine.Assembler

/-- Why an assembler refuses a line or a program. -/
inductive AsmError where
  | unknownMnemonic
  | missingValue
  | unexpectedValue
  | badLiteral
  | valueOutOfRange
  | emptyKeySequence
  | tooManyKeys
  | unmatchedEndr
  | unclosedRep
  deriving DecidableEq, Repr

/-- One line, read. -/
inductive AsmLine where
  | blank
  | command (i : Instr)
  | seedArr (keys : List Word)
  | seedTime
  | rep (count : Nat)
  | endRep
  deriving DecidableEq, Repr

/-- What the host issues: a command, or the command SEEDT makes from the clock when it is issued (R50, R86). -/
inductive Issue where
  | command (i : Instr)
  | seedFromTime
  deriving DecidableEq, Repr

/-! ## Characters and literals -/

def isSpace (c : Char) : Bool := c == ' ' || c == '\t' || c == '\r'

/-- The text without white space at either end. -/
def trim (t : List Char) : List Char := ((t.dropWhile isSpace).reverse.dropWhile isSpace).reverse

/-- A letter in lower case; mnemonics are case-insensitive (R49). -/
def lower (c : Char) : Char := if 65 ≤ c.toNat ∧ c.toNat ≤ 90 then Char.ofNat (c.toNat + 32) else c

/-- The value of a digit. -/
def digitValue (c : Char) : Option Nat :=
  let n := (lower c).toNat
  if 48 ≤ n ∧ n ≤ 57 then some (n - 48) else if 97 ≤ n ∧ n ≤ 102 then some (n - 87) else none

/-- Digits of a base below 17, the value of those before them being `acc`. -/
def digits (base : Nat) : List Char → Nat → Option Nat
  | [], acc => some acc
  | c :: rest, acc =>
    match digitValue c with
    | some d => if d < base then digits base rest (acc * base + d) else none
    | none => none

/-- A decimal or `0x` hexadecimal literal, of any size (R49). -/
def literal : List Char → Except AsmError Nat
  | [] => .error .badLiteral
  | '0' :: 'x' :: c :: rest => ((digits 16 (c :: rest) 0).elim (.error .badLiteral) .ok)
  | c :: rest => ((digits 10 (c :: rest) 0).elim (.error .badLiteral) .ok)

/-- A value in [0, 2^32-1]; one outside is refused, never reduced (R49). -/
def value (t : List Char) : Except AsmError Word :=
  match literal t with
  | .error why => .error why
  | .ok n => if n < 2 ^ 32 then .ok (u32 n) else .error .valueOutOfRange

/-- Values separated by commas. -/
def values : List (List Char) → Except AsmError (List Word)
  | [] => .ok []
  | t :: rest =>
    match value (trim t), values rest with
    | .ok w, .ok ws => .ok (w :: ws)
    | .error why, _ => .error why
    | .ok _, .error why => .error why

/-- The pieces of a text between separators. -/
def splitAt (sep : Char) : List Char → List (List Char)
  | [] => [[]]
  | c :: rest =>
    if c = sep then [] :: splitAt sep rest
    else match splitAt sep rest with
      | [] => [[c]]
      | first :: more => (c :: first) :: more

/-! ## One line -/

/-- A command without a value: one given to it is refused (R49). -/
def plain (i : Instr) (operand : List Char) : Except AsmError AsmLine :=
  if operand = [] then .ok (.command i) else .error .unexpectedValue

/-- A command that requires a value (R49). -/
def withValue (f : Word → Instr) (operand : List Char) : Except AsmError AsmLine :=
  if operand = [] then .error .missingValue
  else match value operand with
    | .ok w => .ok (.command (f w))
    | .error why => .error why

/-- `SEEDARR k0, ..., kn-1`: n = 0 and n > KEY_MAX are refused (R50). R50 gives the keys no literal form: each is read as R49's
`value`, as the KPUSH it expands to would read it (DESIGN CHOICE, log 14). -/
def seedArrLine (operand : List Char) : Except AsmError AsmLine :=
  if operand = [] then .error .emptyKeySequence
  else match values (splitAt ',' operand) with
    | .ok ws => if Config.keyMax < ws.length then .error .tooManyKeys else .ok (.seedArr ws)
    | .error why => .error why

/-- `.rep n` (R50). R50 gives the count no literal form: the model takes a decimal or `0x` hexadecimal literal, as R49 does for
`value`, of any size (DESIGN CHOICE, log 14). -/
def repLine (operand : List Char) : Except AsmError AsmLine :=
  if operand = [] then .error .missingValue
  else match literal operand with
    | .ok n => .ok (.rep n)
    | .error why => .error why

/-- SEEDT or .endr: R50 shows neither with an operand, and the model refuses one given to it (DESIGN CHOICE, log 14). -/
def bare (l : AsmLine) (operand : List Char) : Except AsmError AsmLine :=
  if operand = [] then .ok l else .error .unexpectedValue

/-- A line by its first word, in lower case (R49, R50). For SEEDARR, SEEDT, .rep and .endr, of whose case R50 says nothing, see
`readLine`. -/
def byMnemonic (word operand : List Char) : Except AsmError AsmLine :=
  if word = ['s', 'e', 'e', 'd', 's'] then withValue .seeds operand
  else if word = ['k', 'c', 'l', 'r'] then plain .kclr operand
  else if word = ['k', 'p', 'u', 's', 'h'] then withValue .kpush operand
  else if word = ['s', 'e', 'e', 'd', 'a'] then plain .seeda operand
  else if word = ['d', 'r', 'a', 'w'] then plain .draw operand
  else if word = ['d', 'r', 'a', 'w', '3', '1'] then plain .draw31 operand
  else if word = ['r', 'd', 's', 't', 'a', 't'] then plain .rdstat operand
  else if word = ['s', 'e', 'e', 'd', 'a', 'r', 'r'] then seedArrLine operand
  else if word = ['s', 'e', 'e', 'd', 't'] then bare .seedTime operand
  else if word = ['.', 'r', 'e', 'p'] then repLine operand
  else if word = ['.', 'e', 'n', 'd', 'r'] then bare .endRep operand
  else .error .unknownMnemonic

/-- One line of text: a comment runs from `;` to the end of the line (R49). The first word is read in any case: for the seven
mnemonics R49 says so; for SEEDARR, SEEDT, .rep and .endr R50 is silent and the model takes them likewise (DESIGN CHOICE,
log 14). -/
def readLine (text : List Char) : Except AsmError AsmLine :=
  let code := trim (text.takeWhile (fun c => !(c == ';')))
  if code = [] then .ok .blank
  else byMnemonic ((code.takeWhile (fun c => !isSpace c)).map lower) (trim (code.dropWhile (fun c => !isSpace c)))

/-! ## A program -/

/-- `n` copies of a list, one after the other. -/
def copies : Nat → List Issue → List Issue
  | 0, _ => []
  | n + 1, l => l ++ copies n l

/-- The expansion of SEEDARR (R50): KCLR, one KPUSH for each key in order, SEEDA. -/
def seedArr (keys : List Word) : List Issue :=
  .command .kclr :: (keys.map (fun k => Issue.command (.kpush k)) ++ [.command .seeda])

/-- The issues of the lines that follow. `outer` holds, innermost first, each open `.rep`: its count and the issues
before it; `acc` the issues of the present level. -/
def assembleLines : List AsmLine → List (Nat × List Issue) → List Issue → Except AsmError (List Issue)
  | [], [], acc => .ok acc
  | [], _ :: _, _ => .error .unclosedRep
  | .blank :: rest, outer, acc => assembleLines rest outer acc
  | .command i :: rest, outer, acc => assembleLines rest outer (acc ++ [.command i])
  | .seedArr keys :: rest, outer, acc => assembleLines rest outer (acc ++ seedArr keys)
  | .seedTime :: rest, outer, acc => assembleLines rest outer (acc ++ [.seedFromTime])
  | .rep n :: rest, outer, acc => assembleLines rest ((n, acc) :: outer) []
  | .endRep :: _, [], _ => .error .unmatchedEndr
  | .endRep :: rest, (n, before) :: outer, acc => assembleLines rest outer (before ++ copies n acc)

/-- The lines of a text, read in order up to the first that is refused. -/
def readLines : List (List Char) → Except AsmError (List AsmLine)
  | [] => .ok []
  | t :: rest =>
    match readLine t, readLines rest with
    | .ok l, .ok ls => .ok (l :: ls)
    | .error why, _ => .error why
    | .ok _, .error why => .error why

/-- A whole program (R49, R50). -/
def assemble (text : List Char) : Except AsmError (List Issue) :=
  match readLines (splitAt '\n' text) with
  | .ok lines => assembleLines lines [] []
  | .error why => .error why

/-- The command of an issue; `timeMs` is the host's clock when it is issued (R86). -/
def Issue.instr (timeMs : Nat) : Issue → Instr
  | .command i => i
  | .seedFromTime => .seeds (u32 timeMs)

/-- The token stream of the issues from position `n` on; `clock k` is HOST_TIME_MS when token `k` is issued (R86). -/
def tokens (clock : Nat → Nat) : Nat → List Issue → List Token
  | _, [] => []
  | n, x :: rest => encode (x.instr (clock n)) :: tokens clock (n + 1) rest

end Sys2Proof.Machine.Assembler
end

