-- ==== Sys2Proof/Machine/HostFunctions.lean ====
section
/-!
DEFINITION. The host's functions over the block (44_host_outputs.md). NONE of this is block behaviour (00_scope.md R4):
no step of the machine calls anything here. A host is here the only user of an idle block (R41, R83).
-/

namespace Sys2Proof.Machine

/-! ## Binary64 (R79) -/

/-- A binary64 number that is not negative: `sig * 2^exp`. The results of rounding have `2^52 <= sig < 2^53`, or are
zero with both fields 0. Every number the host functions make lies between 2^-53 and 2^53, so that no exponent bound of
binary64 is ever reached (log 13). -/
structure Binary64 where
  sig : Nat
  exp : Int
  deriving DecidableEq, Repr

/-- The exponent `e` for which `num / den` is a number of 53 bits before the point times `2^e`. -/
def leadExp (num den : Nat) : Int :=
  let e : Int := (Nat.log2 num : Int) - (Nat.log2 den : Int) - 52
  if (num * 2 ^ (-e).toNat) / (den * 2 ^ e.toNat) < 2 ^ 52 then e - 1 else e

/-- The quotient `n / d` rounded to a natural number, to the nearest, ties to even. -/
def nearestEven (n d : Nat) : Nat :=
  let q := n / d
  let r := n % d
  if d < 2 * r ∨ (2 * r = d ∧ q % 2 = 1) then q + 1 else q

/-- The binary64 number nearest to `num / den * 2^e`, ties to even (R79), for `den` at least 1. -/
def roundBinary64 (num den : Nat) (e : Int) : Binary64 :=
  if num = 0 then { sig := 0, exp := 0 }
  else
    let x := leadExp num den
    let q := nearestEven (num * 2 ^ (-x).toNat) (den * 2 ^ x.toNat)
    if q = 2 ^ 53 then { sig := 2 ^ 52, exp := x + e + 1 } else { sig := q, exp := x + e }

/-- A natural number converted (R79: a u32 converts exactly). -/
def ofNat64 (n : Nat) : Binary64 := roundBinary64 n 1 0

/-- The constant `1/q`, rounded once (R79). -/
def recip64 (q : Nat) : Binary64 := roundBinary64 1 q 0

/-- `a * b`, one operation, rounded once (R79). -/
def mul64 (a b : Binary64) : Binary64 := roundBinary64 (a.sig * b.sig) 1 (a.exp + b.exp)

/-- `a + b`, one operation, rounded once (R79). -/
def add64 (a b : Binary64) : Binary64 :=
  let e := min a.exp b.exp
  roundBinary64 (a.sig * 2 ^ (a.exp - e).toNat + b.sig * 2 ^ (b.exp - e).toNat) 1 e

/-! ## The real-valued outputs of drawn words -/

/-- `real_closed` of the drawn word (R80). -/
def realClosed (w : Word) : Binary64 := mul64 (ofNat64 w.toNat) (recip64 4294967295)

/-- `real_half_open` of the drawn word (R81). -/
def realHalfOpen (w : Word) : Binary64 := mul64 (ofNat64 w.toNat) (recip64 4294967296)

/-- `real_open` of the drawn word (R82). -/
def realOpen (w : Word) : Binary64 := mul64 (add64 (ofNat64 w.toNat) (roundBinary64 1 2 0)) (recip64 4294967296)

/-- `real53` of the two drawn words, in the order drawn (R83). -/
def real53 (w1 w2 : Word) : Binary64 :=
  mul64 (add64 (mul64 (ofNat64 (w1 >>> 5).toNat) (ofNat64 67108864)) (ofNat64 (w2 >>> 6).toNat))
    (recip64 9007199254740992)

/-! ## Calling the block -/

/-- The host issues one command to the idle block and takes the response (R118). -/
def call (i : Instr) (s : State) : Option (Token × State) :=
  match runToken (encode i) s with
  | .next t =>
    match t.rsp with
    | some r => some (r, deliver r t)
    | none => none
  | .fault _ => none
  | .refused _ => none

/-- A host function that draws one word. -/
def withWord (f : Word → Binary64) (s : State) : Option (Binary64 × State) :=
  (call .draw s).map fun a => (f (dataField a.1), a.2)

/-- `real_closed()` (R80): one DRAW. -/
def hostRealClosed (s : State) : Option (Binary64 × State) := withWord realClosed s

/-- `real_half_open()` (R81): one DRAW. -/
def hostRealHalfOpen (s : State) : Option (Binary64 × State) := withWord realHalfOpen s

/-- `real_open()` (R82): one DRAW. -/
def hostRealOpen (s : State) : Option (Binary64 × State) := withWord realOpen s

/-- `real53()` (R83): two DRAWs, the first word first. -/
def hostReal53 (s : State) : Option (Binary64 × State) :=
  (call .draw s).bind fun a => (call .draw a.2).map fun b => (real53 (dataField a.1) (dataField b.1), b.2)

/-! ## Seeding from the host -/

/-- Value reduction (R85): an integer modulo 2^32. Every seed and every key a host is given is reduced so before it is placed
in ARG (R43); the constructors below take integers and apply it. -/
def reduceValue (v : Int) : Word := BitVec.ofInt 32 v

/-- Why a host hands out no generator (R87). -/
inductive HostError where
  /-- SEEDA answered INVALID_SEED: "invalid seed" -/
  | invalidSeed
  /-- a KPUSH answered KEY_OVERFLOW -/
  | keyOverflow
  /-- no response; never happens on this block (R93) -/
  | noResponse
  deriving DecidableEq, Repr

/-- The state a command left, or why the host stops with the state it stops in: an error code other than OK. -/
def callChecked (i : Instr) (s : State) : Except (HostError × State) State :=
  match call i s with
  | none => .error (.noResponse, s)
  | some (r, t) =>
    if codeField r = codeByte .ok then .ok t
    else if codeField r = codeByte .keyOverflow then .error (.keyOverflow, t)
    else .error (.invalidSeed, t)

/-- One KPUSH for each key, reduced to 32 bits (R85), in order, stopping at the first that fails (R87). -/
def pushKeys : List Int → State → Except (HostError × State) State
  | [], s => .ok s
  | key :: keys, s =>
    match callChecked (.kpush (reduceValue key)) s with
    | .ok t => pushKeys keys t
    | .error why => .error why

/-- The constructor with a scalar seed, reduced to 32 bits (R85, R87). -/
def constructScalar (seed : Int) (s : State) : Except (HostError × State) State :=
  callChecked (.seeds (reduceValue seed)) s

/-- The constructor with a key sequence (R85, R87): KCLR, one KPUSH for each reduced key, SEEDA. -/
def constructKeys (keys : List Int) (s : State) : Except (HostError × State) State :=
  match callChecked .kclr s with
  | .error why => .error why
  | .ok t =>
    match pushKeys keys t with
    | .error why => .error why
    | .ok u => callChecked .seeda u

/-- The constructor with no seed (R86, R87): `timeMs` is HOST_TIME_MS, a free input. -/
def constructFromTime (timeMs : Nat) (s : State) : Except (HostError × State) State :=
  callChecked (.seeds (u32 timeMs)) s

end Sys2Proof.Machine
end

