-- ==== Sys2Proof/Machine/Timing.lean ====
section
/-!
DEFINITION. Which latency a token has, and the recurrence steps of datapath work behind it (70_reset_and_hazards.md R110,
R117). No step of the machine reads this: the spec represents time by nothing but the order of events (log 7).
-/

namespace Sys2Proof.Machine

/-- The cases of R110. -/
inductive LatencyCase where
  /-- `LAT_SEEDS` -/
  | seeds
  /-- `LAT_SEEDA(L)`, L at least 1 -/
  | seeda (len : Nat)
  /-- `LAT_DRAW`: CURSOR at most 623 -/
  | draw
  /-- `LAT_DRAW_TWIST`: CURSOR 624 -/
  | drawTwist
  /-- `LAT_DRAW_SEED`: CURSOR 625 -/
  | drawSeed
  /-- `LAT_SIMPLE`: KCLR, KPUSH, RDSTAT and every error response -/
  | simple
  deriving DecidableEq, Repr

/-- The case of a draw, by the cursor it finds (R110, R117). -/
def drawLatencyCase (s : State) : LatencyCase :=
  if s.cursor = 625#10 then .drawSeed else if N ≤ s.cursor.toNat then .drawTwist else .draw

/-- The case of a token accepted in a state (R110). -/
def latencyCase (t : Token) (s : State) : LatencyCase :=
  match decode t with
  | .illegal _ => .simple
  | .command (.seeds _) => .seeds
  | .command .kclr => .simple
  | .command (.kpush _) => .simple
  | .command .seeda => if s.keyLen = 0#16 then .simple else .seeda s.keyLen.toNat
  | .command .draw => drawLatencyCase s
  | .command .draw31 => drawLatencyCase s
  | .command .rdstat => .simple

/-- The recurrence steps of datapath work of a case (R110). -/
def workSteps : LatencyCase → Nat
  | .seeds => 623
  | .seeda len => 623 + max 624 len + 623
  | .draw => 0
  | .drawTwist => 624
  | .drawSeed => 623 + 624
  | .simple => 0

/-- The number that names a case in Config. -/
def caseNumber : LatencyCase → Nat
  | .seeds => 0
  | .seeda _ => 1
  | .draw => 2
  | .drawTwist => 3
  | .drawSeed => 4
  | .simple => 5

/-- `LAT_*`, in clock edges from acceptance to `rsp_valid`: open, finite, at least 1 (R110). -/
def latency (c : LatencyCase) : Nat :=
  match c with
  | .seeda len => Config.latencyRaw (caseNumber c) len + 1
  | .seeds => Config.latencyRaw (caseNumber c) 0 + 1
  | .draw => Config.latencyRaw (caseNumber c) 0 + 1
  | .drawTwist => Config.latencyRaw (caseNumber c) 0 + 1
  | .drawSeed => Config.latencyRaw (caseNumber c) 0 + 1
  | .simple => Config.latencyRaw (caseNumber c) 0 + 1

end Sys2Proof.Machine
end

