-- ==== Sys2Proof/Safety.lean ====
section
/-!
DEFINITION. What claims are stated in: the invariant of every state between events (10_state.md R24, R48, R89), what of a
state can be observed (R16, R24, R26), and a run that never stops (60_exceptions.md R93).
-/

namespace Sys2Proof.Machine

/-- A response has the form R48 and R89 give it: bits 31:8 zero, a code from 0 to 3, and DATA 0 with an error code. -/
def rspLegal (r : Token) : Prop :=
  r.extractLsb' 8 24 = 0#24 ∧ (codeField r).toNat ≤ 3 ∧ (codeField r ≠ 0#8 → dataField r = 0#32)

/-- The invariant of the machine: R24 item 1 for CURSOR and KEYLEN; the key buffer's list in its canonical form with
every index below KEY_MAX (R16); every response, pending or transferred, in the form of R48; CMDIDX the number of
responses transferred (R19). -/
structure State.Inv (s : State) : Prop where
  cursorRange : s.cursor.toNat ≤ 625
  keyLenRange : s.keyLen.toNat ≤ Config.keyMax
  keysCanonical : keysRising s.keyBuf = true
  keysInRange : ∀ p ∈ s.keyBuf, p.1 < Config.keyMax
  pendingLegal : ∀ r, s.rsp = some r → rspLegal r
  deliveredLegal : ∀ p ∈ s.delivered, rspLegal p.2
  completedCount : s.cmdIdx = s.delivered.length

/-- Two states that differ at most in what R16 and R24 call unobservable: the key-buffer words at or above KEYLEN, and
STATE while CURSOR is the sentinel 625. -/
structure State.ObsEq (s t : State) : Prop where
  cursor : s.cursor = t.cursor
  keyLen : s.keyLen = t.keyLen
  rsp : s.rsp = t.rsp
  owner : s.owner = t.owner
  inputs : s.inputs = t.inputs
  cmdIdx : s.cmdIdx = t.cmdIdx
  delivered : s.delivered = t.delivered
  keys : ∀ j, j < s.keyLen.toNat → keyRead s j = keyRead t j
  words : s.cursor ≠ 625#10 → s.stateVec = t.stateVec

/-- The rational value of a binary64 number (R79). -/
def Binary64.value (x : Binary64) : Rat := (x.sig : Rat) * (2 : Rat) ^ x.exp

/-- A response word written out from its fields (R48): DATA, 24 zero bits, CODE. -/
def rspOf (code : Byte) (data : Word) : Token := data ++ 0#24 ++ code

/-- The words scalar seeding with `seed` leaves, as the recurrence of R59 with the multiply of R58. -/
def ScalarSeeded (seed : Word) (v : StateVec) : Prop :=
  stateRead v 0 = seed ∧
  ∀ i, 1 ≤ i → i < 624 →
    stateRead v i = (stateRead v (i - 1) ^^^ (stateRead v (i - 1) >>> 30)) * 1812433253#32 + BitVec.ofNat 32 i

/-- One iteration of a mixing pass at index `i` (R60): word `i` becomes `w`, word 0 becomes a copy of it when i was the
last index, and every other word stays. -/
def MixStep (i : Nat) (w : Word) (a b : StateVec) : Prop :=
  stateRead b i = w ∧
  (∀ x, 1 ≤ x → x < 624 → x ≠ i → stateRead b x = stateRead a x) ∧
  stateRead b 0 = if i = 623 then w else stateRead a 0

/-- The product a mixing pass forms at index `i` with multiplier `k` (R57, R58, R60). -/
def mixProduct (a : StateVec) (i : Nat) (k : Word) : Word :=
  (stateRead a (i - 1) ^^^ (stateRead a (i - 1) >>> 30)) * k

/-- `T` of R67 on the words it reads: `a` at kk, `b` at kk + 1, `c` at kk + M. -/
def segmentWord (a b c : Word) : Word :=
  c ^^^ (((a &&& 0x80000000#32) ||| (b &&& 0x7FFFFFFF#32)) >>> 1) ^^^
    (if b.getLsbD 0 then 0x9908B0DF#32 else 0#32)

/-- `b` is the twist of `a`, in the three segments of R67. -/
def TwistOf (a b : StateVec) : Prop :=
  (∀ kk, kk < 227 → stateRead b kk = segmentWord (stateRead a kk) (stateRead a (kk + 1)) (stateRead a (kk + 397))) ∧
  (∀ kk, 227 ≤ kk → kk < 623 →
    stateRead b kk = segmentWord (stateRead a kk) (stateRead a (kk + 1)) (stateRead b (kk - 227))) ∧
  stateRead b 623 = segmentWord (stateRead a 623) (stateRead b 0) (stateRead b 396)

/-- A state from which no run stops: every number of steps ends in a next state (R93). -/
def State.Safe (s : State) : Prop := ∀ k : Nat, ∃ t : State, Host.Core.run Sys2Proof.core k s = .next t

end Sys2Proof.Machine
end

