-- ==== Sys2Proof/Certificates/Slice0/Obligations.lean ====
section
/-!
DEFINITION. The statements for the provers. Each docstring says which rules of spec/ a statement formalises; what it rests
on is in OBLIGATIONS.json.
-/

open Sys2Proof Sys2Proof.Machine

/-- Decoding the encoding of a well-formed command gives the command back (R42, R44, R45, R49). -/
def Obligations.DecodeOfEncode : Prop :=
  ∀ i : Instr, i.wellFormed = true → decode (encode i) = .command i

/-- Encoding a decoded command gives back every bit of the token that the command depends on (R42, R43, R45, R46). -/
def Obligations.EncodeOfDecode : Prop :=
  ∀ (t : Token) (i : Instr), decode t = .command i →
    (encode i).extractLsb' 0 32 = t.extractLsb' 0 32 ∧
    ((∃ w, i = .seeds w ∨ i = .kpush w) → encode i = t)

/-- A token decodes to a command exactly when its masked bits are the opcode table's match value (R43, R44, R45,
30_encoding.md section 2). -/
def Obligations.DecodeFollowsOpcodeTable : Prop :=
  ∀ (t : Token) (i : Instr), decode t = .command i ↔
    (t &&& 0x00000000FFFFFFFF#64 = 0x0000000000000001#64 ∧ i = .seeds (t.extractLsb' 32 32)) ∨
    (t &&& 0x00000000FFFFFFFF#64 = 0x0000000000000002#64 ∧ i = .kclr) ∨
    (t &&& 0x00000000FFFFFFFF#64 = 0x0000000000000003#64 ∧ i = .kpush (t.extractLsb' 32 32)) ∨
    (t &&& 0x00000000FFFFFFFF#64 = 0x0000000000000004#64 ∧ i = .seeda) ∨
    (t &&& 0x00000000FFFFFFFF#64 = 0x0000000000000005#64 ∧ i = .draw) ∨
    (t &&& 0x00000000FFFFFFFF#64 = 0x0000000000000006#64 ∧ i = .draw31) ∨
    (t &&& 0x00000000FFFFFFFF#64 = 0x0000000000000007#64 ∧ i = .rdstat)

/-- A token is illegal exactly when RSV is not zero or OPC is 0x00 or 0x08..0xFF (R45, R46, R94). -/
def Obligations.IllegalExactlyWhenReserved : Prop :=
  ∀ t : Token,
    ((∃ why, decode t = .illegal why) ↔
      (t.extractLsb' 8 24 ≠ 0#24 ∨ t.extractLsb' 0 8 = 0x00#8 ∨ 8 ≤ (t.extractLsb' 0 8).toNat)) ∧
    (t.extractLsb' 8 24 ≠ 0#24 → decode t = .illegal .reservedBits) ∧
    (tokenWellFormed t = true ↔ ∃ i, decode t = .command i)

/-- ARG of KCLR, SEEDA, DRAW, DRAW31 and RDSTAT selects nothing (R43, R46). -/
def Obligations.ArgIgnoredWithoutOperand : Prop :=
  ∀ arg : Word,
    decode (arg ++ 0#24 ++ 0x01#8) = .command (.seeds arg) ∧
    decode (arg ++ 0#24 ++ 0x02#8) = .command .kclr ∧
    decode (arg ++ 0#24 ++ 0x03#8) = .command (.kpush arg) ∧
    decode (arg ++ 0#24 ++ 0x04#8) = .command .seeda ∧
    decode (arg ++ 0#24 ++ 0x05#8) = .command .draw ∧
    decode (arg ++ 0#24 ++ 0x06#8) = .command .draw31 ∧
    decode (arg ++ 0#24 ++ 0x07#8) = .command .rdstat

/-- A stored token or response is its eight bytes, least significant first, and is read back whole (R29, R47, R48). -/
def Obligations.WordsStoredLittleEndian : Prop :=
  ∀ (t : Token) (rest : List Byte),
    (wordBytes t).length = 8 ∧
    (∀ k, k < 8 → (wordBytes t)[k]? = some (t.extractLsb' (8 * k) 8)) ∧
    wordOfBytes (wordBytes t ++ rest) = some (t, rest) ∧
    (∀ i, decodeBytes (wordBytes t ++ rest) = .command i rest ↔ decode t = .command i)

/-- The representative tokens of the spec decode to the commands they stand for (R51). -/
def Obligations.RepresentativeTokensDecode : Prop :=
  decode 0x0000157100000001#64 = .command (.seeds 5489#32) ∧ decode 0xFFFFFFFF00000001#64 = .command (.seeds 0xFFFFFFFF#32) ∧
    decode 0x0000000000000002#64 = .command .kclr ∧ decode 0x0000012300000003#64 = .command (.kpush 0x123#32) ∧
    decode 0x0000000000000004#64 = .command .seeda ∧ decode 0x0000000000000005#64 = .command .draw ∧
    decode 0x0000000000000006#64 = .command .draw31 ∧ decode 0x0000000000000007#64 = .command .rdstat ∧
    decode 0x0000000000000008#64 = .illegal .reservedOpcode ∧ decode 0x0000000000000105#64 = .illegal .reservedBits ∧
    decode 0xDEADBEEF00000005#64 = .command .draw ∧
    decodeBytes [0x01#8, 0x00#8, 0x00#8, 0x00#8, 0x71#8, 0x15#8, 0x00#8, 0x00#8] = .command (.seeds 5489#32) [] ∧
    decodeBytes [0x05#8, 0x00#8, 0x00#8, 0x00#8, 0xEF#8, 0xBE#8, 0xAD#8, 0xDE#8] = .command .draw []

/-- A response word holds DATA in bits 63:32, zero in bits 31:8 and CODE in bits 7:0 (R48, R89). -/
def Obligations.ResponseWordFields : Prop :=
  (∀ (code : RspCode) (data : Word),
      (responseWord code data).extractLsb' 32 32 = data ∧ (responseWord code data).extractLsb' 8 24 = 0#24 ∧
      (responseWord code data).extractLsb' 0 8 = codeByte code) ∧
    codeByte .ok = 0x00#8 ∧ codeByte .invalidSeed = 0x01#8 ∧ codeByte .keyOverflow = 0x02#8 ∧
    codeByte .illegalCommand = 0x03#8

/-- fold30 XORs bits 31:30 into bits 1:0 and changes no other bit (R56). -/
def Obligations.Fold30XorsTopBitsIntoLow : Prop :=
  (∀ x : Word, fold30 x = x ^^^ (x >>> 30) ∧ (fold30 x).extractLsb' 2 30 = x.extractLsb' 2 30 ∧
      (fold30 x).extractLsb' 0 2 = x.extractLsb' 0 2 ^^^ x.extractLsb' 30 2) ∧
    fold30 0x80000000#32 = 0x80000002#32 ∧ fold30 0xFFFFFFFF#32 = 0xFFFFFFFC#32 ∧ fold30 5489#32 = 5489#32

/-- The split form of mix is one 32-bit multiply (R58). -/
def Obligations.MixIsOneMultiply : Prop :=
  (∀ s k : Word, mix s k = s * k) ∧
    mix 0#32 kScalar = 0#32 ∧ mix 1#32 kScalar = 0x6C078965#32 ∧ mix 0xFFFFFFFF#32 kScalar = 0x93F8769B#32 ∧
    mix 0x00010000#32 kScalar = 0x89650000#32 ∧ mix 0x0000FFFF#32 kScalar = 0x1D5D769B#32 ∧
    mix 0xFFFFFFFF#32 kPass1 = 0xFFE699F3#32 ∧ mix 0xFFFFFFFF#32 kPass2 = 0xA2A7749B#32 ∧
    mix 0x12345678#32 kScalar = 0x2E345558#32

/-- temper is a bijection on 32-bit words, as is each of its four steps (R71). -/
def Obligations.TemperIsBijective : Prop :=
  temper 0#32 = 0#32 ∧
    (∀ (k : Nat) (m : Word), 1 ≤ k →
      (∀ z : Word, ∃ y : Word, y ^^^ ((y >>> k) &&& m) = z ∧ ∀ y' : Word, y' ^^^ ((y' >>> k) &&& m) = z → y' = y) ∧
      (∀ z : Word, ∃ y : Word, y ^^^ ((y <<< k) &&& m) = z ∧ ∀ y' : Word, y' ^^^ ((y' <<< k) &&& m) = z → y' = y)) ∧
    (∀ y0 y1 y2 y3 : Word, y1 = y0 ^^^ ((y0 >>> 11) &&& 0xFFFFFFFF#32) → y2 = y1 ^^^ ((y1 <<< 7) &&& 0x9D2C5680#32) →
      y3 = y2 ^^^ ((y2 <<< 15) &&& 0xEFC60000#32) → temper y0 = y3 ^^^ ((y3 >>> 18) &&& 0xFFFFFFFF#32)) ∧
    (∀ z : Word, ∃ y : Word, temper y = z ∧ ∀ y' : Word, temper y' = z → y' = y) ∧
    temper 0x00000001#32 = 0x00400091#32 ∧ temper 0x80000000#32 = 0x88102204#32 ∧
    temper 0xFFFFFFFF#32 = 0x6FE01BF8#32 ∧ temper 0x12345678#32 = 0x2B7E4A2D#32 ∧
    temper 0xDEADBEEF#32 = 0xE016575D#32

/-- The in-place twist is the three-segment form (R66, R67). -/
def Obligations.TwistInThreeSegments : Prop :=
  ∀ v : StateVec, TwistOf v (twistVec v)

/-- Bits 30:0 of STATE[0] have no effect on the twist (R68). -/
def Obligations.TwistReadsOneBitOfWordZero : Prop :=
  ∀ v w : StateVec, (∀ i, 1 ≤ i → i < 624 → stateRead v i = stateRead w i) →
    (stateRead v 0).getLsbD 31 = (stateRead w 0).getLsbD 31 → twistVec v = twistVec w

/-- The sequential twist of the state with only STATE[0] = 0x80000000, and of the zero state (R69, 95_test_vectors.md
L2.3). -/
def Obligations.TwistOfOneBitVector : Prop :=
  (∀ v : StateVec, stateRead v 0 = 0x80000000#32 → (∀ i, 1 ≤ i → i < 624 → stateRead v i = 0#32) →
      ∀ i, i < 624 → stateRead (twistVec v) i =
        if i = 0 ∨ i = 227 ∨ i = 454 then 0x40000000#32 else if i = 623 then 0x20000000#32 else 0#32) ∧
    (∀ v : StateVec, (∀ i, i < 624 → stateRead v i = 0#32) → twistVec v = v)

/-- An accepted token that decodes to a command runs that command (R35, R36, R108, R109). -/
def Obligations.StepRunsDecodedCommand : Prop :=
  ∀ (s : State) (e : PortIn) (rest : List PortIn) (host : Nat) (t : Token) (i : Instr),
    s.inputs = e :: rest → e.rst = false → s.rsp = none → e.cmd = some (host, t) → decode t = .command i →
    step s = exec i { s with inputs := rest, owner := host }

/-- An accepted illegal token answers ILLEGAL_COMMAND and writes no state of the block (R46, R92, R94). -/
def Obligations.StepAnswersIllegalCommand : Prop :=
  ∀ (s : State) (e : PortIn) (rest : List PortIn) (host : Nat) (t : Token) (why : IllegalToken),
    s.inputs = e :: rest → e.rst = false → s.rsp = none → e.cmd = some (host, t) → decode t = .illegal why →
    step s = .next { s with inputs := rest, owner := host, rsp := some (rspOf 0x03#8 0#32) }

/-- A pending response the host takes is delivered to its host; CMDIDX advances here (log 8), no token is accepted here
(log 18) (R41, R48, R108, R109). Two clauses are the model's, not the spec's words: that CMDIDX (R19) advances on
the transfer is log 8, and that no token is accepted at this event is log 18 (both DEDUCED). -/
def Obligations.StepTransfersResponse : Prop :=
  ∀ (s : State) (e : PortIn) (rest : List PortIn) (r : Token),
    s.inputs = e :: rest → e.rst = false → s.rsp = some r → e.rspReady = true →
    step s = .next { s with inputs := rest, rsp := none, delivered := s.delivered ++ [(s.owner, r)],
                            cmdIdx := s.cmdIdx + 1 }

/-- While the host does not take the response, the block accepts nothing and changes nothing (R109). -/
def Obligations.StepHoldsUntakenResponse : Prop :=
  ∀ (s : State) (e : PortIn) (rest : List PortIn) (r : Token),
    s.inputs = e :: rest → e.rst = false → s.rsp = some r → e.rspReady = false →
    step s = .next { s with inputs := rest }

/-- Reset takes priority and leaves CURSOR 625, KEYLEN 0 and no response pending; CMDIDX and delivered responses stay
(log 9) (R94, R105, R106). That CMDIDX and the delivered responses stay is the model's choice (log 9, DESIGN
CHOICE). -/
def Obligations.StepReset : Prop :=
  ∀ (s : State) (e : PortIn) (rest : List PortIn), s.inputs = e :: rest → e.rst = true →
    ∃ t, step s = .next t ∧ t.cursor = 625#10 ∧ t.keyLen = 0#16 ∧ t.rsp = none ∧ t.inputs = rest ∧
      t.delivered = s.delivered ∧ t.cmdIdx = s.cmdIdx

/-- With no token offered and no response pending nothing changes; nor with no event left (the model's choice, log 16)
(R104, R108). The second clause, no event left, is the model's choice (log 16, DESIGN CHOICE). -/
def Obligations.StepIdle : Prop :=
  (∀ (s : State) (e : PortIn) (rest : List PortIn), s.inputs = e :: rest → e.rst = false → s.rsp = none →
      e.cmd = none → step s = .next { s with inputs := rest }) ∧
    (∀ s : State, s.inputs = [] → step s = .next s)

/-- No state has a step that faults or is refused: every run of any length goes on (R88, R93, R96). -/
def Obligations.EveryRunGoesOn : Prop :=
  ∀ s : State, s.Safe

/-- Every command completes with exactly one response of a legal form and a code its own (R10, R48, R88, R89). -/
def Obligations.CommandAnswersOneLegalResponse : Prop :=
  ∀ (i : Instr) (s : State), ∃ t r, exec i s = .next t ∧ t.rsp = some r ∧ rspLegal r ∧
      (codeField r = 0x00#8 ∨ (codeField r = 0x01#8 ∧ i = .seeda) ∨ (codeField r = 0x02#8 ∧ ∃ key, i = .kpush key))

/-- A command that errs changes nothing but the response, and its DATA is 0 (R10, R88, R95). -/
def Obligations.ErrorWritesNothing : Prop :=
  ∀ (i : Instr) (s t : State) (r : Token), exec i s = .next t → t.rsp = some r → codeField r ≠ 0x00#8 →
      t = { s with rsp := some r } ∧ dataField r = 0#32

/-- No command writes the host's side: inputs, delivered responses, owner, reset counter, nor CMDIDX before the
transfer (log 8) (R12, R27, R35). That CMDIDX (R19) stays until the response transfers is the model's reading (log
8, DEDUCED). -/
def Obligations.CommandLeavesHostSide : Prop :=
  ∀ (i : Instr) (s t : State), exec i s = .next t →
      t.owner = s.owner ∧ t.inputs = s.inputs ∧ t.cmdIdx = s.cmdIdx ∧ t.delivered = s.delivered ∧ t.resets = s.resets

/-- Only KPUSH writes KEYBUF, and only KCLR and KPUSH write KEYLEN (R16, R17, R63, R65, R114). -/
def Obligations.KeyBufferWrittenOnlyByKpush : Prop :=
  ∀ (i : Instr) (s t : State), exec i s = .next t → (∀ key, i ≠ .kpush key) →
      (∀ j, keyRead t j = keyRead s j) ∧ t.keyBuf = s.keyBuf ∧ (i ≠ .kclr → t.keyLen = s.keyLen)

/-- KCLR, KPUSH and RDSTAT leave STATE and CURSOR; a draw below 624 leaves STATE (R12, R13, R63, R64, R72, R78). -/
def Obligations.StateVectorFrame : Prop :=
  ∀ (i : Instr) (s t : State), exec i s = .next t →
      ((i = .kclr ∨ i = .rdstat ∨ ∃ key, i = .kpush key) → t.stateVec = s.stateVec ∧ t.cursor = s.cursor) ∧
      ((i = .draw ∨ i = .draw31) → s.cursor.toNat < 624 → t.stateVec = s.stateVec)

/-- Right after reset CURSOR is 625, KEYLEN is 0, no response is pending, and the status word is 0x00000271 (R26, R77,
R105). -/
def Obligations.ResetState : Prop :=
  State.reset.cursor = 625#10 ∧ State.reset.keyLen = 0#16 ∧ State.reset.rsp = none ∧
    statusWord State.reset.cursor State.reset.keyLen = 0x00000271#32

/-- The reset state meets the invariant (CMDIDX the count of delivered responses: log 8, log 17; the key list's form:
log 19) (R16, R24, R26, R48, R89). That CMDIDX is the number of delivered responses rests on the model's start of
both (log 17, DESIGN CHOICE) and its reading of R19 (log 8, DEDUCED); the key list's form is log 19 (DESIGN
CHOICE). -/
def Obligations.ResetMeetsInvariant : Prop :=
  State.reset.Inv

/-- Every step keeps the invariant (CMDIDX the count of delivered responses: log 8; the canonical key list: log 19)
(R15, R16, R17, R24, R48, R89). That CMDIDX is the number of delivered responses is the model's reading of R19 (log
8, DEDUCED), and the canonical key list is its form of KEYBUF (log 19, DESIGN CHOICE). -/
def Obligations.StepKeepsInvariant : Prop :=
  ∀ s t : State, s.Inv → step s = .next t → t.Inv

/-- CURSOR becomes 625 only by reset (R14, R15, R24). -/
def Obligations.SentinelOnlyByReset : Prop :=
  ∀ s t : State, step s = .next t → t.cursor = 625#10 →
      s.cursor = 625#10 ∨ ∃ e rest, s.inputs = e :: rest ∧ e.rst = true

/-- The writes to CURSOR are the ones the spec lists, and no others (R15, R17, R62, R65, R73). -/
def Obligations.CursorAfterCommand : Prop :=
  ∀ (i : Instr) (s : State), ∃ t, exec i s = .next t ∧
      (((∃ seed, i = .seeds seed) ∨ (i = .seeda ∧ s.keyLen ≠ 0#16)) → t.cursor = 624#10) ∧
      ((i = .draw ∨ i = .draw31) → 1 ≤ t.cursor.toNat ∧ t.cursor.toNat ≤ 624 ∧
        t.cursor.toNat = if s.cursor.toNat < 624 then s.cursor.toNat + 1 else 1) ∧
      ((i = .kclr ∨ i = .rdstat ∨ (i = .seeda ∧ s.keyLen = 0#16) ∨ ∃ key, i = .kpush key) → t.cursor = s.cursor)

/-- What R16 and R24 call unobservable stays unobservable over a step (R16, R24, R26, R106). -/
def Obligations.StepHidesUnobservable : Prop :=
  ∀ s t s' : State, s.ObsEq t → step s = .next s' → ∃ t', step t = .next t' ∧ s'.ObsEq t'

/-- Runs of any length from states alike in what can be observed return the same responses (R24, R26, R106, R116). -/
def Obligations.RunsRevealOnlyObservable : Prop :=
  ∀ (k : Nat) (s t : State), s.ObsEq t →
      ∃ s' t', Host.Core.run Sys2Proof.core k s = .next s' ∧ Host.Core.run Sys2Proof.core k t = .next t' ∧
        s'.ObsEq t' ∧ s'.delivered = t'.delivered

/-- SEEDS completes in every state, with the scalar recurrence in STATE, CURSOR 624 and OK (R57, R58, R59, R62). -/
def Obligations.SeedsResult : Prop :=
  ∀ (seed : Word) (s : State), ∃ v : StateVec, ScalarSeeded seed v ∧
      exec (.seeds seed) s = .next { s with stateVec := v, cursor := 624#10, rsp := some (rspOf 0x00#8 0#32) }

/-- KCLR completes in every state: KEYLEN 0, OK, nothing else written; a following SEEDA is INVALID_SEED (R63). -/
def Obligations.KclrResult : Prop :=
  (∀ arg : Word, decode (arg ++ 0#24 ++ 0x02#8) = .command .kclr) ∧
    (∀ s : State, exec .kclr s = .next { s with keyLen := 0#16, rsp := some (rspOf 0x00#8 0#32) }) ∧
    (∀ s : State, s.keyLen = 0#16 → exec .kclr s = .next { s with rsp := some (rspOf 0x00#8 0#32) }) ∧
    (∀ (s : State) (r : Option Token), exec .seeda { s with keyLen := 0#16, rsp := r } =
      .next { s with keyLen := 0#16, rsp := some (rspOf 0x01#8 0#32) })

/-- KPUSH with room appends its key at index KEYLEN and leaves every other key (R16, R17, R64). -/
def Obligations.KpushAppends : Prop :=
  ∀ (key : Word) (s : State), s.keyLen.toNat ≠ Config.keyMax →
      ∃ l : List (Nat × Word), ∃ t : State,
        t = { s with keyBuf := l, keyLen := s.keyLen + 1#16, rsp := some (rspOf 0x00#8 0#32) } ∧
        exec (.kpush key) s = .next t ∧ keyRead t s.keyLen.toNat = key ∧
        ∀ j, j ≠ s.keyLen.toNat → keyRead t j = keyRead s j

/-- KPUSH with the key buffer full answers KEY_OVERFLOW and writes nothing (R64, R91). -/
def Obligations.KpushOverflow : Prop :=
  ∀ (key : Word) (s : State), s.keyLen.toNat = Config.keyMax →
      exec (.kpush key) s = .next { s with rsp := some (rspOf 0x02#8 0#32) }

/-- SEEDA from an empty key sequence answers INVALID_SEED and writes nothing (R65, R90). -/
def Obligations.SeedaWithoutKeys : Prop :=
  ∀ s : State, s.keyLen = 0#16 → exec .seeda s = .next { s with rsp := some (rspOf 0x01#8 0#32) }

/-- SEEDA with keys completes, with the two mixing passes in STATE, CURSOR 624 and OK (R57, R58, R60, R61, R65). -/
def Obligations.SeedaResult : Prop :=
  ∀ s : State, s.keyLen ≠ 0#16 →
      ∃ (P Q : Nat → StateVec) (v : StateVec),
        ScalarSeeded 19650218#32 (P 0) ∧
        (∀ k, k < max 624 s.keyLen.toNat →
          MixStep (1 + k % 623)
            ((stateRead (P k) (1 + k % 623) ^^^ mixProduct (P k) (1 + k % 623) 1664525#32)
              + keyRead s (k % s.keyLen.toNat) + BitVec.ofNat 32 (k % s.keyLen.toNat)) (P k) (P (k + 1))) ∧
        Q 0 = P (max 624 s.keyLen.toNat) ∧
        (∀ k, k < 623 →
          MixStep (1 + (max 624 s.keyLen.toNat + k) % 623)
            ((stateRead (Q k) (1 + (max 624 s.keyLen.toNat + k) % 623)
                ^^^ mixProduct (Q k) (1 + (max 624 s.keyLen.toNat + k) % 623) 1566083941#32)
              - BitVec.ofNat 32 (1 + (max 624 s.keyLen.toNat + k) % 623)) (Q k) (Q (k + 1))) ∧
        stateRead v 0 = 0x80000000#32 ∧ (∀ x, 1 ≤ x → x < 624 → stateRead v x = stateRead (Q 623) x) ∧
        exec .seeda s = .next { s with stateVec := v, cursor := 624#10, rsp := some (rspOf 0x00#8 0#32) }

/-- What a seeding leaves in STATE depends on the seed or the keys alone (R59, R60, R62, R65, R116). -/
def Obligations.SeedingForgetsOldState : Prop :=
  (∀ (seed : Word) (s t s' t' : State), exec (.seeds seed) s = .next s' → exec (.seeds seed) t = .next t' →
      s'.stateVec = t'.stateVec) ∧
    (∀ s t s' t' : State, s.keyLen ≠ 0#16 → s.keyLen = t.keyLen →
      (∀ j, j < s.keyLen.toNat → keyRead s j = keyRead t j) →
      exec .seeda s = .next s' → exec .seeda t = .next t' → s'.stateVec = t'.stateVec)

/-- SEEDS, SEEDA, KCLR and RDSTAT are idempotent (R32). -/
def Obligations.IdempotentCommands : Prop :=
  ∀ (i : Instr) (s t : State), (i = .seeda ∨ i = .kclr ∨ i = .rdstat ∨ ∃ seed, i = .seeds seed) →
      exec i s = .next t → exec i t = .next t

/-- After a completed seeding the twist input is not all zero (R24, R59, R60). -/
def Obligations.SeededTwistInputNotZero : Prop :=
  ∀ (i : Instr) (s t : State), exec i s = .next t →
      ((∃ seed, i = .seeds seed) → ∃ x, 1 ≤ x ∧ x < 624 ∧ stateRead t.stateVec x ≠ 0#32) ∧
      (i = .seeda → s.keyLen ≠ 0#16 → (stateRead t.stateVec 0).getLsbD 31 = true)

/-- DRAW with CURSOR at most 623 returns the tempered word at CURSOR and advances CURSOR by one (R70, R72, R73, R75). -/
def Obligations.DrawWithoutTwist : Prop :=
  ∀ (s : State) (y0 y1 y2 y3 : Word), s.cursor.toNat ≤ 623 → y0 = stateRead s.stateVec s.cursor.toNat →
      y1 = y0 ^^^ (y0 >>> 11) → y2 = y1 ^^^ ((y1 <<< 7) &&& 0x9D2C5680#32) →
      y3 = y2 ^^^ ((y2 <<< 15) &&& 0xEFC60000#32) →
      exec .draw s = .next { s with cursor := s.cursor + 1#10, rsp := some (rspOf 0x00#8 (y3 ^^^ (y3 >>> 18))) }

/-- DRAW with CURSOR at 624 twists first and returns the tempered new STATE[0], leaving CURSOR 1 (R66, R67, R72, R73,
R75). -/
def Obligations.DrawTwistsWhenExhausted : Prop :=
  ∀ s : State, 624 ≤ s.cursor.toNat → s.cursor ≠ 625#10 → ∃ v : StateVec, TwistOf s.stateVec v ∧
      exec .draw s = .next { s with stateVec := v, cursor := 1#10,
                                    rsp := some (rspOf 0x00#8 (temper (stateRead v 0))) }

/-- DRAW at the sentinel seeds with 5489, twists and returns the tempered STATE[0], leaving CURSOR 1 (R59, R66, R67,
R73, R75). -/
def Obligations.DrawSeedsAtSentinel : Prop :=
  ∀ s : State, s.cursor = 625#10 → ∃ b v : StateVec, ScalarSeeded 5489#32 b ∧ TwistOf b v ∧
      exec .draw s = .next { s with stateVec := v, cursor := 1#10,
                                    rsp := some (rspOf 0x00#8 (temper (stateRead v 0))) }

/-- DRAW31 is DRAW with DATA shifted right by one, from every state (R73, R76). -/
def Obligations.Draw31IsDrawShifted : Prop :=
  ∀ s : State, ∃ (t : State) (w : Word), exec .draw s = .next { t with rsp := some (rspOf 0x00#8 w) } ∧
      exec .draw31 s = .next { t with rsp := some (rspOf 0x00#8 (w >>> 1)) } ∧ (w >>> 1).getLsbD 31 = false

/-- From the sentinel, whatever STATE holds, DRAW returns 3499211612 and leaves CURSOR 1 (R75, 95_test_vectors.md
L1.1). -/
def Obligations.DefaultFirstDraw : Prop :=
  ∀ s : State, s.cursor = 625#10 → ∃ t, exec .draw s = .next t ∧ t.cursor = 1#10 ∧
      t.rsp = some 0xD091BB5C00000000#64

/-- After a seeding, draw number d twists STATE exactly when d mod 624 = 1, and every other draw leaves STATE (R24,
R59, R66, R67, R72, R73, R74). Between two draws anything may happen that leaves STATE and CURSOR. -/
def Obligations.TwistOncePer624Draws : Prop :=
  ∀ f : Nat → State, ((f 0).cursor = 624#10 ∨ (f 0).cursor = 625#10) →
      (∀ d, ∃ t, (exec .draw (f d) = .next t ∨ exec .draw31 (f d) = .next t) ∧
        (f (d + 1)).stateVec = t.stateVec ∧ (f (d + 1)).cursor = t.cursor) →
      ∀ d, (624 ≤ (f d).cursor.toNat ↔ (d + 1) % 624 = 1) ∧
        (1 ≤ d → (f d).cursor.toNat = (d - 1) % 624 + 1) ∧
        ((d + 1) % 624 = 1 → ∃ b : StateVec,
          (if (f d).cursor = 625#10 then ScalarSeeded 5489#32 b else b = (f d).stateVec) ∧
          TwistOf b (f (d + 1)).stateVec) ∧
        ((d + 1) % 624 ≠ 1 → (f (d + 1)).stateVec = (f d).stateVec)

/-- RDSTAT completes in every state with the status word and writes nothing (R77, R78). -/
def Obligations.RdstatResult : Prop :=
  ∀ s : State, exec .rdstat s = .next { s with rsp := some (rspOf 0x00#8
      (s.keyLen ++ 0#5 ++ (if s.cursor = 625#10 then 0#1 else 1#1) ++ s.cursor)) }

/-- The latency case of a draw tells whether CURSOR is at most 623, 624 or 625; every latency is at least 1 (R110,
R117). -/
def Obligations.LatencyShowsTwistPoints : Prop :=
  (∀ (s : State) (arg : Word) (opc : Byte), s.cursor.toNat ≤ 625 → (opc = 0x05#8 ∨ opc = 0x06#8) →
      workSteps (latencyCase (arg ++ 0#24 ++ opc) s) =
        if s.cursor.toNat ≤ 623 then 0 else if s.cursor.toNat = 624 then 624 else 623 + 624) ∧
    (∀ (t : Token) (s : State) (why : IllegalToken), decode t = .illegal why → latencyCase t s = .simple) ∧
    (∀ c : LatencyCase, 1 ≤ latency c)

/-- real_half_open of a word w is exactly w / 2^32, below 1 (R79, R81, R84). -/
def Obligations.HalfOpenIsExact : Prop :=
  ∀ w : Word, (realHalfOpen w).value = (w.toNat : Rat) / 4294967296 ∧ 0 ≤ (realHalfOpen w).value ∧
      (realHalfOpen w).value < 1

/-- real_open of a word w is exactly (w + 1/2) / 2^32, strictly between 0 and 1 (R79, R82, R84). -/
def Obligations.OpenIsExact : Prop :=
  ∀ w : Word, (realOpen w).value = (2 * (w.toNat : Rat) + 1) / 8589934592 ∧ 0 < (realOpen w).value ∧
      (realOpen w).value < 1

/-- real53 of two words is exactly (a * 2^26 + b) / 2^53, below 1 (R79, R83, R84). -/
def Obligations.Real53IsExact : Prop :=
  ∀ w1 w2 : Word, (real53 w1 w2).value =
        (((w1.toNat / 32 : Nat) : Rat) * 67108864 + ((w2.toNat / 64 : Nat) : Rat)) / 9007199254740992 ∧
      0 ≤ (real53 w1 w2).value ∧ (real53 w1 w2).value < 1

/-- real_closed is in [0, 1], 0 at word 0 and exactly 1 at word 2^32 - 1 (R79, R80, R84). -/
def Obligations.ClosedStaysInUnitInterval : Prop :=
  (∀ w : Word, 0 ≤ (realClosed w).value ∧ (realClosed w).value ≤ 1) ∧
    (realClosed 0#32).value = 0 ∧ (realClosed 0xFFFFFFFF#32).value = 1

/-- The host function real53 is two DRAWs, the first word used first, from a host alone at the port (log 8, log 20)
(R73, R75, R83). That the host takes each response at once is log 20, and that CMDIDX advances on the transfer is
log 8 (both DEDUCED). -/
def Obligations.Real53DrawsTwoWords : Prop :=
  ∀ s : State, ∃ (a b t : State) (w1 w2 : Word),
      exec .draw s = .next a ∧ a.rsp = some (rspOf 0x00#8 w1) ∧
      exec .draw { a with rsp := none, delivered := s.delivered ++ [(s.owner, rspOf 0x00#8 w1)],
                          cmdIdx := s.cmdIdx + 1 } = .next b ∧ b.rsp = some (rspOf 0x00#8 w2) ∧
      t = { b with rsp := none, cmdIdx := s.cmdIdx + 2,
                   delivered := s.delivered ++ [(s.owner, rspOf 0x00#8 w1), (s.owner, rspOf 0x00#8 w2)] } ∧
      hostReal53 s = some (real53 w1 w2, t) ∧
      t.cursor.toNat = if s.cursor.toNat < 623 then s.cursor.toNat + 2 else if s.cursor.toNat = 623 then 1 else 2

/-- Construction from 1 to KEY_MAX integers succeeds with exactly those keys modulo 2^32 in order and CURSOR 624 (log
8, log 20) (R50, R85, R87). That the host takes each response at once is log 20, and that CMDIDX advances on the
transfer is log 8 (both DEDUCED). -/
def Obligations.KeySequenceConstructor : Prop :=
  ∀ (keys : List Int) (s : State), 1 ≤ keys.length → keys.length ≤ Config.keyMax →
      ∃ t, constructKeys keys s = .ok t ∧ t.keyLen.toNat = keys.length ∧ t.cursor = 624#10 ∧
        (∀ (j : Nat) (v : Int), keys[j]? = some v → ((keyRead t j).toNat : Int) = v % 4294967296) ∧
        t.cmdIdx = s.cmdIdx + keys.length + 2

/-- Construction from no key is an invalid seed, from more than KEY_MAX keys an overflow; STATE and CURSOR stay (R87,
R90, R91). -/
def Obligations.KeySequenceConstructorFails : Prop :=
  ∀ (keys : List Int) (s : State),
      (keys = [] → ∃ t, constructKeys keys s = .error (.invalidSeed, t) ∧ t.stateVec = s.stateVec ∧
        t.cursor = s.cursor) ∧
      (Config.keyMax < keys.length → ∃ t, constructKeys keys s = .error (.keyOverflow, t) ∧
        t.stateVec = s.stateVec ∧ t.cursor = s.cursor)

/-- SEEDARR expands to KCLR, one KPUSH token per key in order, SEEDA (R49, R50). -/
def Obligations.SeedArrExpansion : Prop :=
  ∀ (clock : Nat → Nat) (n : Nat) (keys : List Word),
      Assembler.tokens clock n (Assembler.seedArr keys) =
        0x0000000000000002#64 :: (keys.map (fun k => k ++ 0#24 ++ 0x03#8) ++ [0x0000000000000004#64])

/-- The lines between .rep n and .endr are issued n times (R50). -/
def Obligations.AssembledRepetition : Prop :=
  ∀ (before body after : List Instr) (n : Nat),
      Assembler.assembleLines
        (before.map .command ++ .rep n :: (body.map .command ++ .endRep :: after.map .command)) [] [] =
        .ok (before.map .command ++ (List.replicate n (body.map .command)).flatten ++ after.map .command)

/-- A host's integer seeds and keys are reduced modulo 2^32, and the clock's reading to its low 32 bits (R43, R85, R86,
R87). -/
def Obligations.SeedsAnyInteger : Prop :=
  (∀ (v k : Int) (s : State), constructScalar (v + 4294967296 * k) s = constructScalar v s) ∧
    (∀ v : Int, ((reduceValue v).toNat : Int) = v % 4294967296) ∧
    (∀ (v : Int) (s : State), ∃ t, constructScalar v s = .ok t ∧ t.cursor = 624#10 ∧
      stateRead t.stateVec 0 = reduceValue v) ∧
    (∀ (keys : List (Int × Int)) (s : State),
      constructKeys (keys.map fun p => p.1 + 4294967296 * p.2) s = constructKeys (keys.map Prod.fst) s) ∧
    (∀ (timeMs : Nat) (s : State), constructFromTime timeMs s = constructScalar (timeMs : Int) s)
end

