-- ==== Sys2Proof/Laws/Config.lean ====
section
/-!
SUPPORT. The range of KEY_MAX (10_state.md R16), whatever the open choice is.
-/

namespace Sys2Proof.Config

theorem keyMax_ge : 4 ≤ keyMax := by unfold keyMax; omega

theorem keyMax_le : keyMax ≤ 65535 := by unfold keyMax; omega

end Sys2Proof.Config
end

