-- ==== Sys2Proof/Laws/State.lean ====
section
/-!
SUPPORT. One lemma per field per update of the state, and per field that a shared operation does not write.
-/

namespace Sys2Proof.Machine

@[simp] theorem State.setStateVec_stateVec (s : State) (v : StateVec) : (s.setStateVec v).stateVec = v := rfl
@[simp] theorem State.setStateVec_cursor (s : State) (v : StateVec) : (s.setStateVec v).cursor = s.cursor := rfl
@[simp] theorem State.setStateVec_keyBuf (s : State) (v : StateVec) : (s.setStateVec v).keyBuf = s.keyBuf := rfl
@[simp] theorem State.setStateVec_keyLen (s : State) (v : StateVec) : (s.setStateVec v).keyLen = s.keyLen := rfl
@[simp] theorem State.setStateVec_rsp (s : State) (v : StateVec) : (s.setStateVec v).rsp = s.rsp := rfl
@[simp] theorem State.setStateVec_owner (s : State) (v : StateVec) : (s.setStateVec v).owner = s.owner := rfl
@[simp] theorem State.setStateVec_inputs (s : State) (v : StateVec) : (s.setStateVec v).inputs = s.inputs := rfl
@[simp] theorem State.setStateVec_cmdIdx (s : State) (v : StateVec) : (s.setStateVec v).cmdIdx = s.cmdIdx := rfl
@[simp] theorem State.setStateVec_delivered (s : State) (v : StateVec) : (s.setStateVec v).delivered = s.delivered := rfl
@[simp] theorem State.setStateVec_resets (s : State) (v : StateVec) : (s.setStateVec v).resets = s.resets := rfl

@[simp] theorem State.setCursor_stateVec (s : State) (c : BitVec 10) : (s.setCursor c).stateVec = s.stateVec := rfl
@[simp] theorem State.setCursor_cursor (s : State) (c : BitVec 10) : (s.setCursor c).cursor = c := rfl
@[simp] theorem State.setCursor_keyBuf (s : State) (c : BitVec 10) : (s.setCursor c).keyBuf = s.keyBuf := rfl
@[simp] theorem State.setCursor_keyLen (s : State) (c : BitVec 10) : (s.setCursor c).keyLen = s.keyLen := rfl
@[simp] theorem State.setCursor_rsp (s : State) (c : BitVec 10) : (s.setCursor c).rsp = s.rsp := rfl
@[simp] theorem State.setCursor_owner (s : State) (c : BitVec 10) : (s.setCursor c).owner = s.owner := rfl
@[simp] theorem State.setCursor_inputs (s : State) (c : BitVec 10) : (s.setCursor c).inputs = s.inputs := rfl
@[simp] theorem State.setCursor_cmdIdx (s : State) (c : BitVec 10) : (s.setCursor c).cmdIdx = s.cmdIdx := rfl
@[simp] theorem State.setCursor_delivered (s : State) (c : BitVec 10) : (s.setCursor c).delivered = s.delivered := rfl
@[simp] theorem State.setCursor_resets (s : State) (c : BitVec 10) : (s.setCursor c).resets = s.resets := rfl

@[simp] theorem State.setKeyBuf_stateVec (s : State) (l : List (Nat × Word)) : (s.setKeyBuf l).stateVec = s.stateVec := rfl
@[simp] theorem State.setKeyBuf_cursor (s : State) (l : List (Nat × Word)) : (s.setKeyBuf l).cursor = s.cursor := rfl
@[simp] theorem State.setKeyBuf_keyBuf (s : State) (l : List (Nat × Word)) : (s.setKeyBuf l).keyBuf = l := rfl
@[simp] theorem State.setKeyBuf_keyLen (s : State) (l : List (Nat × Word)) : (s.setKeyBuf l).keyLen = s.keyLen := rfl
@[simp] theorem State.setKeyBuf_rsp (s : State) (l : List (Nat × Word)) : (s.setKeyBuf l).rsp = s.rsp := rfl
@[simp] theorem State.setKeyBuf_owner (s : State) (l : List (Nat × Word)) : (s.setKeyBuf l).owner = s.owner := rfl
@[simp] theorem State.setKeyBuf_inputs (s : State) (l : List (Nat × Word)) : (s.setKeyBuf l).inputs = s.inputs := rfl
@[simp] theorem State.setKeyBuf_cmdIdx (s : State) (l : List (Nat × Word)) : (s.setKeyBuf l).cmdIdx = s.cmdIdx := rfl
@[simp] theorem State.setKeyBuf_delivered (s : State) (l : List (Nat × Word)) : (s.setKeyBuf l).delivered = s.delivered := rfl
@[simp] theorem State.setKeyBuf_resets (s : State) (l : List (Nat × Word)) : (s.setKeyBuf l).resets = s.resets := rfl

@[simp] theorem State.setKeyLen_stateVec (s : State) (n : BitVec 16) : (s.setKeyLen n).stateVec = s.stateVec := rfl
@[simp] theorem State.setKeyLen_cursor (s : State) (n : BitVec 16) : (s.setKeyLen n).cursor = s.cursor := rfl
@[simp] theorem State.setKeyLen_keyBuf (s : State) (n : BitVec 16) : (s.setKeyLen n).keyBuf = s.keyBuf := rfl
@[simp] theorem State.setKeyLen_keyLen (s : State) (n : BitVec 16) : (s.setKeyLen n).keyLen = n := rfl
@[simp] theorem State.setKeyLen_rsp (s : State) (n : BitVec 16) : (s.setKeyLen n).rsp = s.rsp := rfl
@[simp] theorem State.setKeyLen_owner (s : State) (n : BitVec 16) : (s.setKeyLen n).owner = s.owner := rfl
@[simp] theorem State.setKeyLen_inputs (s : State) (n : BitVec 16) : (s.setKeyLen n).inputs = s.inputs := rfl
@[simp] theorem State.setKeyLen_cmdIdx (s : State) (n : BitVec 16) : (s.setKeyLen n).cmdIdx = s.cmdIdx := rfl
@[simp] theorem State.setKeyLen_delivered (s : State) (n : BitVec 16) : (s.setKeyLen n).delivered = s.delivered := rfl
@[simp] theorem State.setKeyLen_resets (s : State) (n : BitVec 16) : (s.setKeyLen n).resets = s.resets := rfl

@[simp] theorem State.setRsp_stateVec (s : State) (r : Option Token) : (s.setRsp r).stateVec = s.stateVec := rfl
@[simp] theorem State.setRsp_cursor (s : State) (r : Option Token) : (s.setRsp r).cursor = s.cursor := rfl
@[simp] theorem State.setRsp_keyBuf (s : State) (r : Option Token) : (s.setRsp r).keyBuf = s.keyBuf := rfl
@[simp] theorem State.setRsp_keyLen (s : State) (r : Option Token) : (s.setRsp r).keyLen = s.keyLen := rfl
@[simp] theorem State.setRsp_rsp (s : State) (r : Option Token) : (s.setRsp r).rsp = r := rfl
@[simp] theorem State.setRsp_owner (s : State) (r : Option Token) : (s.setRsp r).owner = s.owner := rfl
@[simp] theorem State.setRsp_inputs (s : State) (r : Option Token) : (s.setRsp r).inputs = s.inputs := rfl
@[simp] theorem State.setRsp_cmdIdx (s : State) (r : Option Token) : (s.setRsp r).cmdIdx = s.cmdIdx := rfl
@[simp] theorem State.setRsp_delivered (s : State) (r : Option Token) : (s.setRsp r).delivered = s.delivered := rfl
@[simp] theorem State.setRsp_resets (s : State) (r : Option Token) : (s.setRsp r).resets = s.resets := rfl

@[simp] theorem State.setOwner_stateVec (s : State) (h : Nat) : (s.setOwner h).stateVec = s.stateVec := rfl
@[simp] theorem State.setOwner_cursor (s : State) (h : Nat) : (s.setOwner h).cursor = s.cursor := rfl
@[simp] theorem State.setOwner_keyBuf (s : State) (h : Nat) : (s.setOwner h).keyBuf = s.keyBuf := rfl
@[simp] theorem State.setOwner_keyLen (s : State) (h : Nat) : (s.setOwner h).keyLen = s.keyLen := rfl
@[simp] theorem State.setOwner_rsp (s : State) (h : Nat) : (s.setOwner h).rsp = s.rsp := rfl
@[simp] theorem State.setOwner_owner (s : State) (h : Nat) : (s.setOwner h).owner = h := rfl
@[simp] theorem State.setOwner_inputs (s : State) (h : Nat) : (s.setOwner h).inputs = s.inputs := rfl
@[simp] theorem State.setOwner_cmdIdx (s : State) (h : Nat) : (s.setOwner h).cmdIdx = s.cmdIdx := rfl
@[simp] theorem State.setOwner_delivered (s : State) (h : Nat) : (s.setOwner h).delivered = s.delivered := rfl
@[simp] theorem State.setOwner_resets (s : State) (h : Nat) : (s.setOwner h).resets = s.resets := rfl

@[simp] theorem State.setInputs_stateVec (s : State) (l : List PortIn) : (s.setInputs l).stateVec = s.stateVec := rfl
@[simp] theorem State.setInputs_cursor (s : State) (l : List PortIn) : (s.setInputs l).cursor = s.cursor := rfl
@[simp] theorem State.setInputs_keyBuf (s : State) (l : List PortIn) : (s.setInputs l).keyBuf = s.keyBuf := rfl
@[simp] theorem State.setInputs_keyLen (s : State) (l : List PortIn) : (s.setInputs l).keyLen = s.keyLen := rfl
@[simp] theorem State.setInputs_rsp (s : State) (l : List PortIn) : (s.setInputs l).rsp = s.rsp := rfl
@[simp] theorem State.setInputs_owner (s : State) (l : List PortIn) : (s.setInputs l).owner = s.owner := rfl
@[simp] theorem State.setInputs_inputs (s : State) (l : List PortIn) : (s.setInputs l).inputs = l := rfl
@[simp] theorem State.setInputs_cmdIdx (s : State) (l : List PortIn) : (s.setInputs l).cmdIdx = s.cmdIdx := rfl
@[simp] theorem State.setInputs_delivered (s : State) (l : List PortIn) : (s.setInputs l).delivered = s.delivered := rfl
@[simp] theorem State.setInputs_resets (s : State) (l : List PortIn) : (s.setInputs l).resets = s.resets := rfl

@[simp] theorem State.setCmdIdx_stateVec (s : State) (n : Nat) : (s.setCmdIdx n).stateVec = s.stateVec := rfl
@[simp] theorem State.setCmdIdx_cursor (s : State) (n : Nat) : (s.setCmdIdx n).cursor = s.cursor := rfl
@[simp] theorem State.setCmdIdx_keyBuf (s : State) (n : Nat) : (s.setCmdIdx n).keyBuf = s.keyBuf := rfl
@[simp] theorem State.setCmdIdx_keyLen (s : State) (n : Nat) : (s.setCmdIdx n).keyLen = s.keyLen := rfl
@[simp] theorem State.setCmdIdx_rsp (s : State) (n : Nat) : (s.setCmdIdx n).rsp = s.rsp := rfl
@[simp] theorem State.setCmdIdx_owner (s : State) (n : Nat) : (s.setCmdIdx n).owner = s.owner := rfl
@[simp] theorem State.setCmdIdx_inputs (s : State) (n : Nat) : (s.setCmdIdx n).inputs = s.inputs := rfl
@[simp] theorem State.setCmdIdx_cmdIdx (s : State) (n : Nat) : (s.setCmdIdx n).cmdIdx = n := rfl
@[simp] theorem State.setCmdIdx_delivered (s : State) (n : Nat) : (s.setCmdIdx n).delivered = s.delivered := rfl
@[simp] theorem State.setCmdIdx_resets (s : State) (n : Nat) : (s.setCmdIdx n).resets = s.resets := rfl

@[simp] theorem State.setDelivered_stateVec (s : State) (l : List (Nat × Token)) : (s.setDelivered l).stateVec = s.stateVec := rfl
@[simp] theorem State.setDelivered_cursor (s : State) (l : List (Nat × Token)) : (s.setDelivered l).cursor = s.cursor := rfl
@[simp] theorem State.setDelivered_keyBuf (s : State) (l : List (Nat × Token)) : (s.setDelivered l).keyBuf = s.keyBuf := rfl
@[simp] theorem State.setDelivered_keyLen (s : State) (l : List (Nat × Token)) : (s.setDelivered l).keyLen = s.keyLen := rfl
@[simp] theorem State.setDelivered_rsp (s : State) (l : List (Nat × Token)) : (s.setDelivered l).rsp = s.rsp := rfl
@[simp] theorem State.setDelivered_owner (s : State) (l : List (Nat × Token)) : (s.setDelivered l).owner = s.owner := rfl
@[simp] theorem State.setDelivered_inputs (s : State) (l : List (Nat × Token)) : (s.setDelivered l).inputs = s.inputs := rfl
@[simp] theorem State.setDelivered_cmdIdx (s : State) (l : List (Nat × Token)) : (s.setDelivered l).cmdIdx = s.cmdIdx := rfl
@[simp] theorem State.setDelivered_delivered (s : State) (l : List (Nat × Token)) : (s.setDelivered l).delivered = l := rfl
@[simp] theorem State.setDelivered_resets (s : State) (l : List (Nat × Token)) : (s.setDelivered l).resets = s.resets := rfl

@[simp] theorem State.setResets_stateVec (s : State) (n : Nat) : (s.setResets n).stateVec = s.stateVec := rfl
@[simp] theorem State.setResets_cursor (s : State) (n : Nat) : (s.setResets n).cursor = s.cursor := rfl
@[simp] theorem State.setResets_keyBuf (s : State) (n : Nat) : (s.setResets n).keyBuf = s.keyBuf := rfl
@[simp] theorem State.setResets_keyLen (s : State) (n : Nat) : (s.setResets n).keyLen = s.keyLen := rfl
@[simp] theorem State.setResets_rsp (s : State) (n : Nat) : (s.setResets n).rsp = s.rsp := rfl
@[simp] theorem State.setResets_owner (s : State) (n : Nat) : (s.setResets n).owner = s.owner := rfl
@[simp] theorem State.setResets_inputs (s : State) (n : Nat) : (s.setResets n).inputs = s.inputs := rfl
@[simp] theorem State.setResets_cmdIdx (s : State) (n : Nat) : (s.setResets n).cmdIdx = s.cmdIdx := rfl
@[simp] theorem State.setResets_delivered (s : State) (n : Nat) : (s.setResets n).delivered = s.delivered := rfl
@[simp] theorem State.setResets_resets (s : State) (n : Nat) : (s.setResets n).resets = n := rfl

/-! ## respond and raise write the response only -/

@[simp] theorem respond_stateVec (code : RspCode) (data : Word) (s : State) : (respond code data s).stateVec = s.stateVec := rfl
@[simp] theorem respond_cursor (code : RspCode) (data : Word) (s : State) : (respond code data s).cursor = s.cursor := rfl
@[simp] theorem respond_keyBuf (code : RspCode) (data : Word) (s : State) : (respond code data s).keyBuf = s.keyBuf := rfl
@[simp] theorem respond_keyLen (code : RspCode) (data : Word) (s : State) : (respond code data s).keyLen = s.keyLen := rfl
@[simp] theorem respond_rsp (code : RspCode) (data : Word) (s : State) : (respond code data s).rsp = some (responseWord code data) := rfl
@[simp] theorem respond_owner (code : RspCode) (data : Word) (s : State) : (respond code data s).owner = s.owner := rfl
@[simp] theorem respond_inputs (code : RspCode) (data : Word) (s : State) : (respond code data s).inputs = s.inputs := rfl
@[simp] theorem respond_cmdIdx (code : RspCode) (data : Word) (s : State) : (respond code data s).cmdIdx = s.cmdIdx := rfl
@[simp] theorem respond_delivered (code : RspCode) (data : Word) (s : State) : (respond code data s).delivered = s.delivered := rfl
@[simp] theorem respond_resets (code : RspCode) (data : Word) (s : State) : (respond code data s).resets = s.resets := rfl

@[simp] theorem raise_stateVec (code : RspCode) (s : State) : (raise code s).stateVec = s.stateVec := rfl
@[simp] theorem raise_cursor (code : RspCode) (s : State) : (raise code s).cursor = s.cursor := rfl
@[simp] theorem raise_keyBuf (code : RspCode) (s : State) : (raise code s).keyBuf = s.keyBuf := rfl
@[simp] theorem raise_keyLen (code : RspCode) (s : State) : (raise code s).keyLen = s.keyLen := rfl
@[simp] theorem raise_rsp (code : RspCode) (s : State) : (raise code s).rsp = some (responseWord code 0#32) := rfl
@[simp] theorem raise_owner (code : RspCode) (s : State) : (raise code s).owner = s.owner := rfl
@[simp] theorem raise_inputs (code : RspCode) (s : State) : (raise code s).inputs = s.inputs := rfl
@[simp] theorem raise_cmdIdx (code : RspCode) (s : State) : (raise code s).cmdIdx = s.cmdIdx := rfl
@[simp] theorem raise_delivered (code : RspCode) (s : State) : (raise code s).delivered = s.delivered := rfl
@[simp] theorem raise_resets (code : RspCode) (s : State) : (raise code s).resets = s.resets := rfl

/-! ## keyWrite writes the key buffer only -/

@[simp] theorem keyWrite_stateVec (s : State) (j : Nat) (w : Word) : (keyWrite s j w).stateVec = s.stateVec := rfl
@[simp] theorem keyWrite_cursor (s : State) (j : Nat) (w : Word) : (keyWrite s j w).cursor = s.cursor := rfl
@[simp] theorem keyWrite_keyBuf (s : State) (j : Nat) (w : Word) : (keyWrite s j w).keyBuf = keyInsert j w s.keyBuf := rfl
@[simp] theorem keyWrite_keyLen (s : State) (j : Nat) (w : Word) : (keyWrite s j w).keyLen = s.keyLen := rfl
@[simp] theorem keyWrite_rsp (s : State) (j : Nat) (w : Word) : (keyWrite s j w).rsp = s.rsp := rfl
@[simp] theorem keyWrite_owner (s : State) (j : Nat) (w : Word) : (keyWrite s j w).owner = s.owner := rfl
@[simp] theorem keyWrite_inputs (s : State) (j : Nat) (w : Word) : (keyWrite s j w).inputs = s.inputs := rfl
@[simp] theorem keyWrite_cmdIdx (s : State) (j : Nat) (w : Word) : (keyWrite s j w).cmdIdx = s.cmdIdx := rfl
@[simp] theorem keyWrite_delivered (s : State) (j : Nat) (w : Word) : (keyWrite s j w).delivered = s.delivered := rfl
@[simp] theorem keyWrite_resets (s : State) (j : Nat) (w : Word) : (keyWrite s j w).resets = s.resets := rfl

/-! ## SeedScalar, SeedArray and Twist write STATE and CURSOR only -/

@[simp] theorem seedScalar_stateVec (seed : Word) (s : State) : (seedScalar seed s).stateVec = seedVec seed s.stateVec := rfl
@[simp] theorem seedScalar_cursor (seed : Word) (s : State) : (seedScalar seed s).cursor = 624#10 := rfl
@[simp] theorem seedScalar_keyBuf (seed : Word) (s : State) : (seedScalar seed s).keyBuf = s.keyBuf := rfl
@[simp] theorem seedScalar_keyLen (seed : Word) (s : State) : (seedScalar seed s).keyLen = s.keyLen := rfl
@[simp] theorem seedScalar_rsp (seed : Word) (s : State) : (seedScalar seed s).rsp = s.rsp := rfl
@[simp] theorem seedScalar_owner (seed : Word) (s : State) : (seedScalar seed s).owner = s.owner := rfl
@[simp] theorem seedScalar_inputs (seed : Word) (s : State) : (seedScalar seed s).inputs = s.inputs := rfl
@[simp] theorem seedScalar_cmdIdx (seed : Word) (s : State) : (seedScalar seed s).cmdIdx = s.cmdIdx := rfl
@[simp] theorem seedScalar_delivered (seed : Word) (s : State) : (seedScalar seed s).delivered = s.delivered := rfl
@[simp] theorem seedScalar_resets (seed : Word) (s : State) : (seedScalar seed s).resets = s.resets := rfl

@[simp] theorem seedArray_stateVec (len : Nat) (s : State) : (seedArray len s).stateVec = seedArrayVec (keyRead s) len (seedVec arrayBaseSeed s.stateVec) := rfl
@[simp] theorem seedArray_cursor (len : Nat) (s : State) : (seedArray len s).cursor = 624#10 := rfl
@[simp] theorem seedArray_keyBuf (len : Nat) (s : State) : (seedArray len s).keyBuf = s.keyBuf := rfl
@[simp] theorem seedArray_keyLen (len : Nat) (s : State) : (seedArray len s).keyLen = s.keyLen := rfl
@[simp] theorem seedArray_rsp (len : Nat) (s : State) : (seedArray len s).rsp = s.rsp := rfl
@[simp] theorem seedArray_owner (len : Nat) (s : State) : (seedArray len s).owner = s.owner := rfl
@[simp] theorem seedArray_inputs (len : Nat) (s : State) : (seedArray len s).inputs = s.inputs := rfl
@[simp] theorem seedArray_cmdIdx (len : Nat) (s : State) : (seedArray len s).cmdIdx = s.cmdIdx := rfl
@[simp] theorem seedArray_delivered (len : Nat) (s : State) : (seedArray len s).delivered = s.delivered := rfl
@[simp] theorem seedArray_resets (len : Nat) (s : State) : (seedArray len s).resets = s.resets := rfl

@[simp] theorem twist_cursor (s : State) : (twist s).cursor = 0#10 := rfl
@[simp] theorem twist_keyBuf (s : State) : (twist s).keyBuf = s.keyBuf := by
  simp only [twist]; split <;> rfl
@[simp] theorem twist_keyLen (s : State) : (twist s).keyLen = s.keyLen := by
  simp only [twist]; split <;> rfl
@[simp] theorem twist_rsp (s : State) : (twist s).rsp = s.rsp := by
  simp only [twist]; split <;> rfl
@[simp] theorem twist_owner (s : State) : (twist s).owner = s.owner := by
  simp only [twist]; split <;> rfl
@[simp] theorem twist_inputs (s : State) : (twist s).inputs = s.inputs := by
  simp only [twist]; split <;> rfl
@[simp] theorem twist_cmdIdx (s : State) : (twist s).cmdIdx = s.cmdIdx := by
  simp only [twist]; split <;> rfl
@[simp] theorem twist_delivered (s : State) : (twist s).delivered = s.delivered := by
  simp only [twist]; split <;> rfl
@[simp] theorem twist_resets (s : State) : (twist s).resets = s.resets := by
  simp only [twist]; split <;> rfl

@[simp] theorem lazyTwist_keyBuf (s : State) : (lazyTwist s).keyBuf = s.keyBuf := by
  simp only [lazyTwist]; split <;> simp
@[simp] theorem lazyTwist_keyLen (s : State) : (lazyTwist s).keyLen = s.keyLen := by
  simp only [lazyTwist]; split <;> simp
@[simp] theorem lazyTwist_rsp (s : State) : (lazyTwist s).rsp = s.rsp := by
  simp only [lazyTwist]; split <;> simp
@[simp] theorem lazyTwist_owner (s : State) : (lazyTwist s).owner = s.owner := by
  simp only [lazyTwist]; split <;> simp
@[simp] theorem lazyTwist_inputs (s : State) : (lazyTwist s).inputs = s.inputs := by
  simp only [lazyTwist]; split <;> simp
@[simp] theorem lazyTwist_cmdIdx (s : State) : (lazyTwist s).cmdIdx = s.cmdIdx := by
  simp only [lazyTwist]; split <;> simp
@[simp] theorem lazyTwist_delivered (s : State) : (lazyTwist s).delivered = s.delivered := by
  simp only [lazyTwist]; split <;> simp
@[simp] theorem lazyTwist_resets (s : State) : (lazyTwist s).resets = s.resets := by
  simp only [lazyTwist]; split <;> simp

@[simp] theorem draw_keyBuf (s : State) : (draw s).2.keyBuf = s.keyBuf := by simp [draw]
@[simp] theorem draw_keyLen (s : State) : (draw s).2.keyLen = s.keyLen := by simp [draw]
@[simp] theorem draw_rsp (s : State) : (draw s).2.rsp = s.rsp := by simp [draw]
@[simp] theorem draw_owner (s : State) : (draw s).2.owner = s.owner := by simp [draw]
@[simp] theorem draw_inputs (s : State) : (draw s).2.inputs = s.inputs := by simp [draw]
@[simp] theorem draw_cmdIdx (s : State) : (draw s).2.cmdIdx = s.cmdIdx := by simp [draw]
@[simp] theorem draw_delivered (s : State) : (draw s).2.delivered = s.delivered := by simp [draw]
@[simp] theorem draw_resets (s : State) : (draw s).2.resets = s.resets := by simp [draw]

/-! ## deliver -/

@[simp] theorem deliver_stateVec (r : Token) (s : State) : (deliver r s).stateVec = s.stateVec := rfl
@[simp] theorem deliver_cursor (r : Token) (s : State) : (deliver r s).cursor = s.cursor := rfl
@[simp] theorem deliver_keyBuf (r : Token) (s : State) : (deliver r s).keyBuf = s.keyBuf := rfl
@[simp] theorem deliver_keyLen (r : Token) (s : State) : (deliver r s).keyLen = s.keyLen := rfl
@[simp] theorem deliver_rsp (r : Token) (s : State) : (deliver r s).rsp = none := rfl
@[simp] theorem deliver_owner (r : Token) (s : State) : (deliver r s).owner = s.owner := rfl
@[simp] theorem deliver_inputs (r : Token) (s : State) : (deliver r s).inputs = s.inputs := rfl
@[simp] theorem deliver_cmdIdx (r : Token) (s : State) : (deliver r s).cmdIdx = s.cmdIdx + 1 := rfl
@[simp] theorem deliver_delivered (r : Token) (s : State) : (deliver r s).delivered = s.delivered ++ [(s.owner, r)] := rfl
@[simp] theorem deliver_resets (r : Token) (s : State) : (deliver r s).resets = s.resets := rfl

/-! ## applyReset: the fields the spec gives a value, and those it leaves -/

@[simp] theorem applyReset_stateVec (s : State) : (applyReset s).stateVec = unspecifiedVec s.resets := rfl
@[simp] theorem applyReset_cursor (s : State) : (applyReset s).cursor = 625#10 := rfl
@[simp] theorem applyReset_keyBuf (s : State) : (applyReset s).keyBuf = [] := rfl
@[simp] theorem applyReset_keyLen (s : State) : (applyReset s).keyLen = 0#16 := rfl
@[simp] theorem applyReset_rsp (s : State) : (applyReset s).rsp = none := rfl
@[simp] theorem applyReset_resets (s : State) : (applyReset s).resets = s.resets + 1 := rfl
@[simp] theorem applyReset_owner (s : State) : (applyReset s).owner = s.owner := rfl
@[simp] theorem applyReset_inputs (s : State) : (applyReset s).inputs = s.inputs := rfl
@[simp] theorem applyReset_cmdIdx (s : State) : (applyReset s).cmdIdx = s.cmdIdx := rfl
@[simp] theorem applyReset_delivered (s : State) : (applyReset s).delivered = s.delivered := rfl

end Sys2Proof.Machine
end

