-- ==== Sys2Proof/Laws/Ops.lean ====
section
/-!
SUPPORT. The laws of the shared operations: the loop, the state vector, the key buffer, the response, a draw, an event.
-/

namespace Sys2Proof.Machine

/-! ## The constants omega must see -/

@[simp] theorem N_eq : N = 624 := rfl
@[simp] theorem M_eq : M = 397 := rfl

/-! ## The loop -/

@[simp] theorem forCount_zero {α : Type} (a : Nat) (body : Nat → α → α) (x : α) : forCount 0 a body x = x := by
  rw [forCount]

theorem forCount_succ {α : Type} (n a : Nat) (body : Nat → α → α) (x : α) :
    forCount (n + 1) a body x = forCount n (a + 1) body (body a x) := by
  rw [forCount]

/-- The last iteration split off. -/
theorem forCount_succ_last {α : Type} (n a : Nat) (body : Nat → α → α) (x : α) :
    forCount (n + 1) a body x = body (a + n) (forCount n a body x) := by
  induction n generalizing a x with
  | zero => simp [forCount_succ]
  | succ n ih => rw [forCount_succ, ih, forCount_succ, show a + 1 + n = a + (n + 1) by omega]

/-- What holds before the first iteration and is carried over each one holds after the last (R11). -/
theorem forCount_induct {α : Type} (P : Nat → α → Prop) {n a : Nat} {body : Nat → α → α} {x : α} (h0 : P a x)
    (hs : ∀ i y, a ≤ i → i < a + n → P i y → P (i + 1) (body i y)) : P (a + n) (forCount n a body x) := by
  induction n with
  | zero => simpa using h0
  | succ n ih =>
    rw [forCount_succ_last]
    exact hs (a + n) _ (by omega) (by omega) (ih fun i y h1 h2 => hs i y h1 (by omega))

/-- The same for `for i in [a, b)`. -/
theorem forRange_induct {α : Type} (P : Nat → α → Prop) {a b : Nat} {body : Nat → α → α} {x : α} (hab : a ≤ b)
    (h0 : P a x) (hs : ∀ i y, a ≤ i → i < b → P i y → P (i + 1) (body i y)) : P b (forRange a b body x) := by
  have h := forCount_induct P (n := b - a) h0 fun i y h1 h2 => hs i y h1 (by omega)
  rwa [show a + (b - a) = b by omega] at h

/-! ## The state vector -/

theorem stateRead_write (v : StateVec) (i j : Nat) (w : Word) (hi : i < 624) :
    stateRead (stateWrite v i w) j = if i = j then w else stateRead v j := by
  by_cases hj : j < 624
  · simp [stateRead, stateWrite, hi, hj, Vector.getElem_set]
  · have : i ≠ j := by omega
    simp [stateRead, hj, this]

@[simp] theorem stateRead_write_same (v : StateVec) (i : Nat) (w : Word) (hi : i < 624) :
    stateRead (stateWrite v i w) i = w := by simp [stateRead_write, hi]

theorem stateRead_write_ne (v : StateVec) {i j : Nat} (w : Word) (h : i ≠ j) :
    stateRead (stateWrite v i w) j = stateRead v j := by
  by_cases hi : i < 624
  · simp [stateRead_write, hi, h]
  · simp [stateWrite, hi]

/-- A state vector is its 624 words. -/
theorem stateVec_ext {v w : StateVec} (h : ∀ i, i < 624 → stateRead v i = stateRead w i) : v = w := by
  apply Vector.ext
  intro i hi
  simpa [stateRead, hi] using h i hi

/-! ## The key buffer -/

@[simp] theorem keyLookup_insert_same (j : Nat) (w : Word) (l : List (Nat × Word)) :
    keyLookup (keyInsert j w l) j = some w := by
  induction l with
  | nil => simp [keyInsert, keyLookup]
  | cons p rest ih =>
    obtain ⟨i, u⟩ := p
    simp only [keyInsert]
    split
    · simp [keyLookup]
    · split
      · simp [keyLookup]
      · have : i ≠ j := by omega
        simp [keyLookup, this, ih]

theorem keyLookup_insert_ne {j k : Nat} (h : j ≠ k) (w : Word) (l : List (Nat × Word)) :
    keyLookup (keyInsert j w l) k = keyLookup l k := by
  induction l with
  | nil => simp [keyInsert, keyLookup, h]
  | cons p rest ih =>
    obtain ⟨i, u⟩ := p
    simp only [keyInsert]
    split
    · simp [keyLookup, h]
    · split
      · rename_i _ hji
        have : i ≠ k := by omega
        simp [keyLookup, h, this]
      · simp [keyLookup, ih]

/-- `KEYBUF[j]` after a write to it is the word written. -/
@[simp] theorem keyRead_write_same (s : State) (j : Nat) (w : Word) : keyRead (keyWrite s j w) j = w := by
  simp [keyRead]

/-- A write to `KEYBUF[j]` leaves every other word. -/
theorem keyRead_write_ne (s : State) {j k : Nat} (h : j ≠ k) (w : Word) :
    keyRead (keyWrite s j w) k = keyRead s k := by
  simp [keyRead, keyLookup_insert_ne h]

theorem keysRising_cons (p : Nat × Word) (l : List (Nat × Word)) :
    keysRising (p :: l) = true ↔ (∀ q, l.head? = some q → p.1 < q.1) ∧ keysRising l = true := by
  cases l with
  | nil => simp [keysRising]
  | cons q rest => simp [keysRising]

theorem keyInsert_head (j : Nat) (w : Word) (l : List (Nat × Word)) (q : Nat × Word)
    (h : (keyInsert j w l).head? = some q) : q.1 = j ∨ ∃ p, l.head? = some p ∧ q.1 = p.1 := by
  cases l with
  | nil => simp [keyInsert] at h; simp [← h]
  | cons p rest =>
    obtain ⟨i, u⟩ := p
    simp only [keyInsert] at h
    split at h
    · simp at h; simp [← h]
    · split at h
      · simp at h; simp [← h]
      · simp at h; simp [← h]

/-- A write keeps the canonical form of the key buffer (log 19). -/
theorem keysRising_insert (j : Nat) (w : Word) (l : List (Nat × Word)) (h : keysRising l = true) :
    keysRising (keyInsert j w l) = true := by
  induction l with
  | nil => rfl
  | cons p rest ih =>
    obtain ⟨i, u⟩ := p
    have hr := (keysRising_cons _ _).1 h
    simp only [keyInsert]
    split
    · rename_i hji
      exact (keysRising_cons _ _).2 ⟨by simpa using hji, h⟩
    · split
      · rename_i _ hji
        subst hji
        exact (keysRising_cons _ _).2 hr
      · rename_i h1 h2
        refine (keysRising_cons _ _).2 ⟨fun q hq => ?_, ih hr.2⟩
        rcases keyInsert_head j w rest q hq with h3 | ⟨p, hp, h3⟩
        · simp only; omega
        · have := hr.1 p hp
          simp only at this ⊢; omega

/-- A write adds no index but its own. -/
theorem mem_keyInsert {j : Nat} {w : Word} {l : List (Nat × Word)} {p : Nat × Word} (h : p ∈ keyInsert j w l) :
    p = (j, w) ∨ p ∈ l := by
  induction l with
  | nil => simpa [keyInsert] using h
  | cons q rest ih =>
    obtain ⟨i, u⟩ := q
    simp only [keyInsert] at h
    split at h
    · simpa using h
    · split at h
      · rcases List.mem_cons.1 h with h | h
        · exact .inl h
        · exact .inr (List.mem_cons_of_mem _ h)
      · rcases List.mem_cons.1 h with h | h
        · exact .inr (by simp [h])
        · exact (ih h).imp id (List.mem_cons_of_mem _)

theorem reset_keysRising : keysRising State.reset.keyBuf = true := rfl

/-! ## A draw -/

/-- No twist below N (R72). -/
theorem lazyTwist_of_lt {s : State} (h : s.cursor.toNat < 624) : lazyTwist s = s := by
  rw [lazyTwist, N_eq, if_neg (by omega)]

/-- The twist from N on (R72). -/
theorem lazyTwist_of_ge {s : State} (h : 624 ≤ s.cursor.toNat) : lazyTwist s = twist s := by
  rw [lazyTwist, N_eq, if_pos h]

/-- The cursor a draw reads at is in 0..623, whatever it finds (R15, R30). -/
theorem lazyTwist_cursor_lt (s : State) : (lazyTwist s).cursor.toNat < 624 := by
  rw [lazyTwist, N_eq]
  split
  · simp
  · omega

/-! ## Every command answers a next state -/

/-- Every command completes (R93). -/
theorem exec_next (i : Instr) (s : State) : ∃ t, exec i s = .next t := by
  cases i with
  | seeds seed => exact ⟨_, rfl⟩
  | kclr => exact ⟨_, rfl⟩
  | kpush key => simp only [exec, execKpush]; split <;> exact ⟨_, rfl⟩
  | seeda => simp only [exec, execSeeda]; split <;> exact ⟨_, rfl⟩
  | draw => exact ⟨_, rfl⟩
  | draw31 => exact ⟨_, rfl⟩
  | rdstat => exact ⟨_, rfl⟩

/-- What a step can do: nothing is left to come; reset; a response transfers or is held; a token runs, or is refused by
the decoder; nothing is offered. -/
theorem step_cases {s t : State} (h : step s = .next t) :
    (s.inputs = [] ∧ t = s) ∨
    ∃ e rest, s.inputs = e :: rest ∧
      ((e.rst = true ∧ t = applyReset (s.setInputs rest)) ∨
       (e.rst = false ∧ ∃ r, s.rsp = some r ∧
          ((e.rspReady = true ∧ t = deliver r (s.setInputs rest)) ∨ (e.rspReady = false ∧ t = s.setInputs rest))) ∨
       (e.rst = false ∧ s.rsp = none ∧ ∃ host tok i, e.cmd = some (host, tok) ∧ decode tok = .command i ∧
          exec i ((s.setInputs rest).setOwner host) = .next t) ∨
       (e.rst = false ∧ s.rsp = none ∧ ∃ host tok why, e.cmd = some (host, tok) ∧ decode tok = .illegal why ∧
          t = raise .illegalCommand ((s.setInputs rest).setOwner host)) ∨
       (e.rst = false ∧ s.rsp = none ∧ e.cmd = none ∧ t = s.setInputs rest)) := by
  unfold step nextEvent at h
  split at h
  · rename_i h0; left; exact ⟨h0, by injection h with h; exact h.symm⟩
  · rename_i e rest h0
    right
    refine ⟨e, rest, h0, ?_⟩
    unfold portEvent at h
    split at h
    · rename_i hr; left; exact ⟨hr, by injection h with h; exact h.symm⟩
    · rename_i hr
      have hr : e.rst = false := by simpa using hr
      right
      split at h
      · rename_i r hp
        left
        refine ⟨hr, r, by simpa using hp, ?_⟩
        split at h
        · rename_i hy; left; exact ⟨hy, by injection h with h; exact h.symm⟩
        · rename_i hy; right; exact ⟨by simpa using hy, by injection h with h; exact h.symm⟩
      · rename_i hp
        have hp : s.rsp = none := by simpa using hp
        right
        split at h
        · rename_i host tok hc
          unfold runToken at h
          split at h
          · rename_i i hd; left; exact ⟨hr, hp, host, tok, i, hc, hd, h⟩
          · rename_i why hd
            right; left
            exact ⟨hr, hp, host, tok, why, hc, hd, by injection h with h; exact h.symm⟩
        · rename_i hc
          right; right
          exact ⟨hr, hp, hc, by injection h with h; exact h.symm⟩

end Sys2Proof.Machine
end

