-- ==== Sys2Proof/Laws/Fast.lean ====
section
/-!
SUPPORT. The long passes in a form the kernel evaluates quickly, proved equal to the model's: the state vector as a list of
natural numbers that a pass walks once, every new word computed before the walk goes on. The tests use it to compare whole
passes with 95_test_vectors.md.
-/

namespace Sys2Proof.Machine.Fast

/-! ## The vector as two lists -/

/-- The words of a state vector as numbers. -/
def nats (v : StateVec) : List Nat := v.toList.map BitVec.toNat

/-- The walk stands before `rest`, having passed `done` (the last passed word first). -/
def At (done rest : List Nat) (v : StateVec) : Prop := nats v = done.reverse ++ rest

theorem nats_length (v : StateVec) : (nats v).length = 624 := by simp [nats]

theorem At.length {done rest : List Nat} {v : StateVec} (h : At done rest v) : done.length + rest.length = 624 := by
  have := nats_length v
  rw [h] at this
  simpa using this

theorem nats_get (v : StateVec) (i : Nat) : ((nats v)[i]?).getD 0 = (stateRead v i).toNat := by
  by_cases h : i < 624
  · simp [nats, stateRead, h]
  · simp [nats, stateRead, h]

theorem nats_write (v : StateVec) (i : Nat) (w : Word) : nats (stateWrite v i w) = (nats v).set i w.toNat := by
  by_cases h : i < 624
  · simp [nats, stateWrite, h, Vector.toList_set, List.map_set]
  · rw [List.set_eq_of_length_le (by rw [nats_length]; omega)]
    simp [stateWrite, h]

/-- The word before the walk. -/
theorem At.head {done rest : List Nat} {x : Nat} {v : StateVec} (h : At done (x :: rest) v) :
    (stateRead v done.length).toNat = x := by
  rw [← nats_get, h]; simp

/-- The word the walk passed last. -/
theorem At.last {done rest : List Nat} {p : Nat} {v : StateVec} (h : At (p :: done) rest v) :
    (stateRead v done.length).toNat = p := by
  rw [← nats_get, h]; simp

/-- Writing the word before the walk and passing it. -/
theorem At.write {done rest : List Nat} {x : Nat} {v : StateVec} (h : At done (x :: rest) v) (w : Word) :
    At (w.toNat :: done) rest (stateWrite v done.length w) := by
  unfold At at h ⊢
  rw [nats_write, h]
  simp

/-- The continuation at the computed number: the match makes the kernel compute it. -/
def force {α : Type} (w : Nat) (k : Nat → α) : α :=
  match w with
  | 0 => k 0
  | n + 1 => k (n + 1)

@[simp] theorem force_eq {α : Type} (w : Nat) (k : Nat → α) : force w k = k w := by
  cases w <;> rfl

/-! ## One word -/

def nFold (x : Nat) : Nat := x ^^^ (x >>> 30)

def nMix (x k : Nat) : Nat :=
  (((x / 65536 * k) % 4294967296 * 65536) % 4294967296 + (x % 65536 * k) % 4294967296) % 4294967296

theorem nFold_eq (x : Word) : (fold30 x).toNat = nFold x.toNat := by simp [fold30, nFold]

theorem nMix_eq (x k : Word) : (mix x k).toNat = nMix x.toNat k.toNat := by
  have hx : x.toNat / 65536 < 65536 := by have := x.isLt; omega
  have hhi : ((x.extractLsb' 16 16).setWidth 32).toNat = x.toNat / 65536 := by
    rw [BitVec.toNat_setWidth, BitVec.extractLsb'_toNat, Nat.shiftRight_eq_div_pow, show (2 : Nat) ^ 16 = 65536 from rfl,
      Nat.mod_eq_of_lt hx, Nat.mod_eq_of_lt (by omega)]
  have hlo : ((x.extractLsb' 0 16).setWidth 32).toNat = x.toNat % 65536 := by
    rw [BitVec.toNat_setWidth, BitVec.extractLsb'_toNat, Nat.shiftRight_zero, show (2 : Nat) ^ 16 = 65536 from rfl,
      Nat.mod_eq_of_lt (by omega)]
  simp only [mix, nMix, BitVec.toNat_add, BitVec.toNat_shiftLeft, BitVec.toNat_mul, hhi, hlo, Nat.shiftLeft_eq]

/-! ## SeedScalar -/

/-- The walk of SeedScalar at index `i`, the word before it being `p`. -/
def seedWalk : List Nat → Nat → Nat → List Nat → List Nat
  | [], _, p, done => (p :: done).reverse
  | _ :: rest, i, p, done =>
    force ((nMix (nFold p) 1812433253 + i % 4294967296) % 4294967296) fun w => seedWalk rest (i + 1) w (p :: done)

theorem seedWalk_eq (rest : List Nat) (p : Nat) (done : List Nat) (v : StateVec) (h : At (p :: done) rest v) :
    seedWalk rest (done.length + 1) p done = nats (forCount rest.length (done.length + 1) seedBody v) := by
  induction rest generalizing p done v with
  | nil => simpa [seedWalk, At] using Eq.symm h
  | cons x rest ih =>
    obtain ⟨w, hwd⟩ : ∃ w, w = mix (fold30 (stateRead v done.length)) kScalar + u32 (done.length + 1) := ⟨_, rfl⟩
    have hu : (u32 (done.length + 1)).toNat = (done.length + 1) % 4294967296 := BitVec.toNat_ofNat _ _
    have hk : kScalar.toNat = 1812433253 := rfl
    have hw : ((nMix (nFold p) 1812433253 + (done.length + 1) % 4294967296) % 4294967296) = w.toNat := by
      rw [hwd, BitVec.toNat_add, nMix_eq, nFold_eq, h.last, hu, hk]
    have hb : seedBody (done.length + 1) v = stateWrite v (done.length + 1) w := by rw [hwd]; rfl
    rw [seedWalk, force_eq, hw, List.length_cons, forCount_succ, hb]
    exact ih w.toNat (p :: done) _ (h.write w)

/-- The words SeedScalar leaves, over the `rest` of a vector behind word 0. -/
theorem seedVec_nats (s : Word) {x : Nat} {rest : List Nat} {v : StateVec} (h : nats v = x :: rest) :
    nats (seedVec s v) = seedWalk rest 1 s.toNat [] := by
  have h0 : At [s.toNat] rest (stateWrite v 0 s) := At.write (done := []) (x := x) (by simpa [At] using h) s
  have hl : rest.length = 623 := by have := h0.length; simp at this; omega
  have := seedWalk_eq rest s.toNat [] _ h0
  have hn : N - 1 = 623 := rfl
  rw [seedVec, forRange, hn]
  simpa [hl] using this.symm

/-! ## SeedArray -/

def pass2Walk : Nat → Nat → Nat → List Nat → List Nat → List Nat
  | 0, _, p, done, rest => (p :: done).reverse ++ rest
  | _ + 1, _, _, _, [] => []
  | n + 1, i, p, done, x :: rest =>
    force ((4294967296 - i % 4294967296 + (x ^^^ nMix (nFold p) 1566083941)) % 4294967296) fun w =>
      match rest with
      | [] => pass2Walk n 1 w [] ((w :: p :: done).reverse.tail)
      | y :: more => pass2Walk n (i + 1) w (p :: done) (y :: more)

/-- Pass 1 over the keys, then `n2` iterations of pass 2 from where it stands. -/
def pass1Walk (key : Nat → Nat) (len n2 : Nat) : Nat → Nat → Nat → Nat → List Nat → List Nat → List Nat
  | 0, i, _, p, done, rest => pass2Walk n2 i p done rest
  | _ + 1, _, _, _, _, [] => []
  | n + 1, i, j, p, done, x :: rest =>
    force ((((x ^^^ nMix (nFold p) 1664525) + key j) % 4294967296 + j % 4294967296) % 4294967296) fun w =>
      let j' := if len ≤ j + 1 then 0 else j + 1
      match rest with
      | [] => pass1Walk key len n2 n 1 j' w [] ((w :: p :: done).reverse.tail)
      | y :: more => pass1Walk key len n2 n (i + 1) j' w (p :: done) (y :: more)

/-- The walk after the wrap of i: word 0 is a copy of the last word, and the walk stands before word 1 (R60). -/
theorem At.wrap {w p : Nat} {done : List Nat} {v : StateVec} (h : At (w :: p :: done) [] v) :
    At [w] ((w :: p :: done).reverse.tail) (advanceIndex v (done.length + 1)).1 ∧
      (advanceIndex v (done.length + 1)).2 = 1 := by
  have hl := h.length
  simp only [List.length_cons, List.length_nil] at hl
  have hr : (stateRead v 623).toNat = w := by
    have := h.last
    rwa [show (p :: done).length = 623 by simp only [List.length_cons]; omega] at this
  have hc : N ≤ done.length + 1 + 1 := by rw [N_eq]; omega
  unfold advanceIndex
  rw [if_pos hc]
  refine ⟨?_, rfl⟩
  unfold At at h ⊢
  have h623 : N - 1 = 623 := rfl
  rw [nats_write, h, h623, hr, List.append_nil]
  rcases hrev : (w :: p :: done).reverse with _ | ⟨a, l⟩
  · simp at hrev
  · simp

theorem At.advance {w p y : Nat} {done more : List Nat} {v : StateVec} (h : At (w :: p :: done) (y :: more) v) :
    advanceIndex v (done.length + 1) = (v, done.length + 1 + 1) := by
  have hl := h.length
  simp only [List.length_cons] at hl
  have hc : ¬ N ≤ done.length + 1 + 1 := by rw [N_eq]; omega
  unfold advanceIndex
  rw [if_neg hc]

theorem tail_ne_nil {w p : Nat} {done : List Nat} {v : StateVec} (h : At (w :: p :: done) [] v) :
    (w :: p :: done).reverse.tail ≠ [] := by
  have hl := h.length
  simp only [List.length_cons, List.length_nil] at hl
  intro hnil
  have := congrArg List.length hnil
  rw [List.length_tail, List.length_reverse] at this
  simp only [List.length_cons, List.length_nil] at this
  omega

theorem pass2Walk_eq (n a : Nat) (q : MixPass) (p : Nat) (done rest : List Nat) (h : At (p :: done) rest q.vec)
    (hr : rest ≠ []) (hi : q.i = done.length + 1) :
    pass2Walk n q.i p done rest = nats (forCount n a pass2Body q).vec := by
  induction n generalizing a q p done rest with
  | zero => simpa [pass2Walk, At] using Eq.symm h
  | succ n ih =>
    obtain _ | ⟨x, rest⟩ := rest
    · exact absurd rfl hr
    have hx := h.head
    have hp := h.last
    simp only [List.length_cons] at hx
    obtain ⟨w, hwd⟩ : ∃ w, w = (stateRead q.vec q.i ^^^ mix (fold30 (stateRead q.vec (q.i - 1))) kPass2) - u32 q.i :=
      ⟨_, rfl⟩
    have hw : (4294967296 - q.i % 4294967296 + (x ^^^ nMix (nFold p) 1566083941)) % 4294967296 = w.toNat := by
      simp [hwd, BitVec.toNat_sub, nMix_eq, nFold_eq, hi, hx, hp, kPass2, u32]
    have hwr : At (w.toNat :: p :: done) rest (stateWrite q.vec q.i w) := by rw [hi]; exact h.write w
    have hb : pass2Body a q = ⟨(advanceIndex (stateWrite q.vec q.i w) (done.length + 1)).1,
        (advanceIndex (stateWrite q.vec q.i w) (done.length + 1)).2, q.j⟩ := by rw [← hi, hwd]; rfl
    rw [pass2Walk, force_eq, hw, forCount_succ]
    obtain _ | ⟨y, more⟩ := rest
    · have hwrap := hwr.wrap
      have := ih (a + 1) (pass2Body a q) w.toNat [] (w.toNat :: p :: done).reverse.tail (by rw [hb]; exact hwrap.1)
        (tail_ne_nil hwr) (by rw [hb]; exact hwrap.2)
      rwa [show (pass2Body a q).i = 1 by rw [hb]; exact hwrap.2] at this
    · rw [hwr.advance] at hb
      have := ih (a + 1) (pass2Body a q) w.toNat (p :: done) (y :: more) (by rw [hb]; exact hwr) (by simp)
        (by rw [hb]; rfl)
      rwa [show (pass2Body a q).i = q.i + 1 by rw [hb, hi]] at this

theorem pass1Walk_eq (key : Nat → Word) (len n2 n a : Nat) (q : MixPass) (p : Nat) (done rest : List Nat)
    (h : At (p :: done) rest q.vec) (hr : rest ≠ []) (hi : q.i = done.length + 1) :
    pass1Walk (fun j => (key j).toNat) len n2 n q.i q.j p done rest
      = nats (forCount n2 0 pass2Body (forCount n a (pass1Body key len) q)).vec := by
  induction n generalizing a q p done rest with
  | zero => simpa [pass1Walk] using pass2Walk_eq n2 0 q p done rest h hr hi
  | succ n ih =>
    obtain _ | ⟨x, rest⟩ := rest
    · exact absurd rfl hr
    have hx := h.head
    have hp := h.last
    simp only [List.length_cons] at hx
    obtain ⟨w, hwd⟩ : ∃ w, w = (stateRead q.vec q.i ^^^ mix (fold30 (stateRead q.vec (q.i - 1))) kPass1)
        + key q.j + u32 q.j := ⟨_, rfl⟩
    have hw : (((x ^^^ nMix (nFold p) 1664525) + (key q.j).toNat) % 4294967296 + q.j % 4294967296) % 4294967296
        = w.toNat := by
      simp [hwd, BitVec.toNat_add, nMix_eq, nFold_eq, hi, hx, hp, kPass1, u32]
    have hwr : At (w.toNat :: p :: done) rest (stateWrite q.vec q.i w) := by rw [hi]; exact h.write w
    have hb : pass1Body key len a q = ⟨(advanceIndex (stateWrite q.vec q.i w) (done.length + 1)).1,
        (advanceIndex (stateWrite q.vec q.i w) (done.length + 1)).2, if len ≤ q.j + 1 then 0 else q.j + 1⟩ := by rw [← hi, hwd]; rfl
    have hj : (pass1Body key len a q).j = if len ≤ q.j + 1 then 0 else q.j + 1 := rfl
    rw [pass1Walk, force_eq, hw, forCount_succ]
    obtain _ | ⟨y, more⟩ := rest
    · have hwrap := hwr.wrap
      have := ih (a + 1) (pass1Body key len a q) w.toNat [] (w.toNat :: p :: done).reverse.tail
        (by rw [hb]; exact hwrap.1) (tail_ne_nil hwr) (by rw [hb]; exact hwrap.2)
      rwa [show (pass1Body key len a q).i = 1 by rw [hb]; exact hwrap.2, hj] at this
    · rw [hwr.advance] at hb
      have := ih (a + 1) (pass1Body key len a q) w.toNat (p :: done) (y :: more) (by rw [hb]; exact hwr) (by simp)
        (by rw [hb]; rfl)
      rwa [show (pass1Body key len a q).i = q.i + 1 by rw [hb, hi], hj] at this

/-- The words SeedArray leaves over the keys `key 0 .. key (len - 1)`, from a vector of words `x :: rest`. -/
theorem seedArrayVec_nats (key : Nat → Word) (len : Nat) {x : Nat} {rest : List Nat} {v : StateVec}
    (h : nats v = x :: rest) :
    nats (seedArrayVec key len v)
      = (pass1Walk (fun j => (key j).toNat) len 623 (max 624 len) 1 0 x [] rest).set 0 2147483648 := by
  have h0 : At [x] rest v := by simpa [At] using h
  have hl := h0.length
  have hr : rest ≠ [] := by intro hr; simp [hr] at hl
  have hn : N - 1 - 0 = 623 := rfl
  have hm : max N len - 0 = max 624 len := rfl
  rw [seedArrayVec, forRange, forRange, hn, hm, nats_write]
  rw [← pass1Walk_eq key len 623 (max 624 len) 0 { vec := v, i := 1, j := 0 } x [] rest h0 hr rfl]
  rfl

/-! ## The twist -/

def nTwist (cur nxt far : Nat) : Nat :=
  let y := (cur &&& 2147483648) ||| (nxt &&& 2147483647)
  far ^^^ (y >>> 1) ^^^ (if y.testBit 0 then 2567483615 else 0)

theorem nTwist_eq (cur nxt far : Word) : (twistWord cur nxt far).toNat = nTwist cur.toNat nxt.toNat far.toNat := by
  have hy : ((cur &&& upperMask) ||| (nxt &&& lowerMask)).toNat
      = (cur.toNat &&& 2147483648) ||| (nxt.toNat &&& 2147483647) := by simp [upperMask, lowerMask]
  unfold twistWord nTwist
  simp only [BitVec.toNat_xor, BitVec.toNat_ushiftRight, hy, BitVec.getLsbD]
  split <;> simp [matrixA]

/-- The walk of the twist: `first` is word 0 as rewritten, `far` the words at kk + M on, modulo N; when it is used up, the
next ones are the last 227 words the walk rewrote (R67). -/
def twistWalk (first : Nat) : List Nat → List Nat → List Nat → List Nat
  | [], _, done => done.reverse
  | x :: rest, [], done =>
    match (done.take 227).reverse with
    | [] => []
    | f :: far =>
      force (nTwist x (rest.headD first) f) fun w => twistWalk first rest far (w :: done)
  | x :: rest, f :: far, done =>
    force (nTwist x (rest.headD first) f) fun w => twistWalk first rest far (w :: done)

/-- `far` lists words of the vector from kk + M on, modulo N, at most 227 of them. -/
def Far (kk : Nat) (far : List Nat) (v : StateVec) : Prop :=
  far.length ≤ 227 ∧ ∀ m, m < far.length → far[m]? = some (stateRead v ((kk + m + 397) % 624)).toNat

theorem Far.step {kk f : Nat} {far : List Nat} {v : StateVec} (h : Far kk (f :: far) v) (w : Word) :
    Far (kk + 1) far (stateWrite v kk w) := by
  refine ⟨by have := h.1; simp only [List.length_cons] at this; omega, fun m hm => ?_⟩
  have h2 := h.2 (m + 1) (by simpa using hm)
  have h3 := h.1
  simp only [List.length_cons] at h3
  rw [stateRead_write_ne _ _ (by omega), show kk + 1 + m + 397 = kk + (m + 1) + 397 by omega]
  simpa using h2

theorem At.refill {x : Nat} {done rest : List Nat} {v : StateVec} (h : At done (x :: rest) v) (hk : 227 ≤ done.length) :
    Far done.length (done.take 227).reverse v := by
  have hl := h.length
  simp only [List.length_cons] at hl
  refine ⟨by rw [List.length_reverse, List.length_take]; omega, fun m hm => ?_⟩
  have hm : m < 227 := by rw [List.length_reverse, List.length_take] at hm; omega
  have hmod : (done.length + m + 397) % 624 = done.length - 227 + m := by omega
  have hlt : done.length - 227 + m < done.reverse.length := by rw [List.length_reverse]; omega
  have hrd := nats_get v (done.length - 227 + m)
  rw [h, List.getElem?_append_left hlt, List.getElem?_reverse (by simpa using hlt)] at hrd
  rw [hmod, ← hrd, List.getElem?_reverse (by simp; omega), List.length_take, Nat.min_eq_left hk,
    List.getElem?_take, if_pos (by omega), show 227 - 1 - m = done.length - 1 - (done.length - 227 + m) by omega,
    List.getElem?_eq_getElem (by omega)]
  rfl

theorem twistWalk_eq (first : Nat) (rest far done : List Nat) (v : StateVec) (h : At done rest v)
    (hf : Far done.length far v) (hfar : far = [] → 227 ≤ done.length)
    (hfst : done ≠ [] → (stateRead v 0).toNat = first) (hne : done = [] → rest.length ≠ 1)
    (hfirst : done = [] → ∀ x y t f g, rest = x :: y :: t → far = f :: g → nTwist x y f = first)
    (hlong : far.length + done.length < 624 → far.length + done.length ≥ 227) :
    twistWalk first rest far done = nats (forCount rest.length done.length twistBody v) := by
  induction rest generalizing far done v with
  | nil => cases far <;> simpa [twistWalk, At] using Eq.symm h
  | cons x rest ih =>
    have hl := h.length
    simp only [List.length_cons] at hl
    have hx := h.head
    have hnx : (rest.headD first) = (stateRead v ((done.length + 1) % N)).toNat := by
      rw [N_eq]
      match rest with
      | [] =>
        have hd : done ≠ [] := fun hd => hne hd rfl
        simp only [List.length_nil] at hl
        rw [show (done.length + 1) % 624 = 0 by omega, hfst hd]
        rfl
      | y :: t =>
        simp only [List.length_cons] at hl
        have h2 := nats_get v (done.length + 1)
        rw [h] at h2
        rw [Nat.mod_eq_of_lt (by omega), ← h2]
        simp
    -- the step, once `far` has a head
    have key : ∀ f far', Far done.length (f :: far') v → (far = f :: far' ∨ done ≠ []) →
        (far'.length + (done.length + 1) < 624 → far'.length + (done.length + 1) ≥ 227) →
        (force (nTwist x (rest.headD first) f) fun w => twistWalk first rest far' (w :: done))
          = nats (forCount (rest.length + 1) done.length twistBody v) := by
      intro f far' hF hwhich hlong'
      have hf0 : (stateRead v ((done.length + M) % N)).toNat = f := by
        have := hF.2 0 (by simp)
        simp only [Nat.add_zero, List.getElem?_cons_zero, Option.some.injEq] at this
        rw [N_eq, M_eq, this]
      let w := twistWord (stateRead v done.length) (stateRead v ((done.length + 1) % N))
        (stateRead v ((done.length + M) % N))
      have hw : nTwist x (rest.headD first) f = w.toNat := by
        rw [hnx, nTwist_eq, hx, hf0]
      rw [force_eq, hw, forCount_succ]
      have hwr : At (w.toNat :: done) rest (stateWrite v done.length w) := h.write w
      have hih := ih far' (w.toNat :: done) (stateWrite v done.length w) hwr
        (by simpa using hF.step w)
        (by
          intro hnil
          have := hlong' 
          simp only [hnil, List.length_nil, List.length_cons] at this ⊢
          omega)
        (by
          intro _
          by_cases hd : done = []
          · subst hd
            rcases hwhich with hw1 | hw1
            · match rest with
              | [] => exact absurd rfl (hne rfl)
              | y :: t =>
                have := hfirst rfl x y t f far' rfl hw1
                simp only [List.length_nil] at hwr ⊢
                rw [stateRead_write_same _ _ _ (by omega)]
                rw [← this]; exact hw.symm
            · exact absurd rfl hw1
          · have hpos : 0 < done.length := List.length_pos_iff.2 hd
            rw [stateRead_write_ne _ _ (by omega)]
            exact hfst hd)
        (by intro hd; simp at hd) (by intro hd; simp at hd)
        (by simpa using hlong')
      simpa [twistBody] using hih
    obtain _ | ⟨f, far'⟩ := far
    · have hk := hfar rfl
      have hF := h.refill hk
      have hlen : (done.take 227).reverse.length = 227 := by rw [List.length_reverse, List.length_take]; omega
      rw [twistWalk]
      obtain ⟨f, far', hrev⟩ : ∃ f far', (done.take 227).reverse = f :: far' := by
        cases hc : (done.take 227).reverse with
        | nil => rw [hc] at hlen; simp at hlen
        | cons f far' => exact ⟨f, far', rfl⟩
      rw [hrev] at hF hlen ⊢
      simp only [List.length_cons] at hlen
      exact key f far' hF (.inr (by intro hd; simp [hd] at hk)) (by omega)
    · rw [twistWalk]
      exact key f far' hf (.inl rfl) (by intro h1; simp only [List.length_cons] at hlong; omega)

/-- The words the twist leaves, from a vector of words `x :: y :: rest` whose word M is `f`. -/
def twistAll (l : List Nat) : List Nat :=
  match l, l.drop 397 with
  | x :: y :: rest, f :: far => force (nTwist x y f) fun first => twistWalk first (x :: y :: rest) (f :: far) []
  | _, _ => []

theorem twistVec_nats {l : List Nat} {v : StateVec} (h : nats v = l) : nats (twistVec v) = twistAll l := by
  have hl := nats_length v
  rw [h] at hl
  have hd : (l.drop 397).length = 227 := by rw [List.length_drop, hl]
  obtain _ | ⟨x, _ | ⟨y, rest⟩⟩ := l
  · simp at hl
  · simp at hl
  obtain ⟨f, far, hf⟩ : ∃ f far, (x :: y :: rest).drop 397 = f :: far := by
    cases hc : (x :: y :: rest).drop 397 with
    | nil => rw [hc] at hd; simp at hd
    | cons f far => exact ⟨f, far, rfl⟩
  have hn : N - 0 = 624 := rfl
  have hfl : (f :: far).length = 227 := by rw [← hf, hd]
  have := twistWalk_eq (nTwist x y f) (x :: y :: rest) (f :: far) [] v (by simpa [At] using h)
    ⟨by omega, fun m hm => by
      rw [← hf]
      rw [hfl] at hm
      rw [List.getElem?_drop, ← nats_get, h, List.length_nil,
        show (0 + m + 397) % 624 = 397 + m by omega, List.getElem?_eq_getElem (by omega)]
      rfl⟩
    (by simp) (by simp) (by simp)
    (by
      intro _ x' y' t f' g hx hg
      injection hx with h1 h2
      injection h2 with h2 _
      injection hg with h3 _
      rw [h1, h2, h3])
    (by intro _; rw [hfl]; simp)
  have hall : twistAll (x :: y :: rest) = twistWalk (nTwist x y f) (x :: y :: rest) (f :: far) [] := by
    unfold twistAll
    simp only [hf, force_eq]
  rw [hall, this, twistVec, forRange, hn, hl]
  rfl

end Sys2Proof.Machine.Fast
end

