-- ==== Sys2Proof/Laws/Host.lean ====
section
/-!
SUPPORT. What a host's call of the block answers, said once, so that no proof over the host's functions unfolds the port.
-/

namespace Sys2Proof.Machine

@[simp] theorem keyRead_deliver (r : Token) (s : State) (j : Nat) : keyRead (deliver r s) j = keyRead s j := rfl

/-- A call answers the response of the command and the state in which that response has transferred. -/
theorem call_of_exec {i : Instr} {s t : State} {r : Token} (hd : decode (encode i) = .command i)
    (h : exec i s = .next t) (hr : t.rsp = some r) : call i s = some (r, deliver r t) := by
  simp only [call, runToken, hd, h, hr]

/-- A checked call goes on with the state after the transfer where CODE is OK. -/
theorem callChecked_ok {i : Instr} {s t : State} {r : Token} (h : call i s = some (r, t))
    (hc : codeField r = codeByte .ok) : callChecked i s = .ok t := by
  simp only [callChecked, h, hc, if_true]

/-- A checked call stops where CODE is an error. -/
theorem callChecked_error {i : Instr} {s t : State} {r : Token} (h : call i s = some (r, t))
    (hc : codeField r ≠ codeByte .ok) :
    callChecked i s =
      .error (if codeField r = codeByte .keyOverflow then .keyOverflow else .invalidSeed, t) := by
  simp only [callChecked, h, if_neg hc]
  split <;> rfl

@[simp] theorem pushKeys_nil (s : State) : pushKeys [] s = .ok s := rfl

/-- After a key that was accepted the rest is pushed from the state it left. -/
theorem pushKeys_ok {key : Int} {s t : State} (h : callChecked (.kpush (reduceValue key)) s = .ok t)
    (keys : List Int) : pushKeys (key :: keys) s = pushKeys keys t := by
  simp only [pushKeys, h]

/-- A key that was refused ends the sequence. -/
theorem pushKeys_error {key : Int} {s : State} {why : HostError × State}
    (h : callChecked (.kpush (reduceValue key)) s = .error why) (keys : List Int) :
    pushKeys (key :: keys) s = .error why := by
  simp only [pushKeys, h]

end Sys2Proof.Machine
end

