-- ==== Sys2Proof/Laws/PerInstr.lean ====
section
/-!
SUPPORT. One lemma per command about its token: the encoder's token is well formed (30_encoding.md R42, R44, R46), its
reserved bits zero and its opcode assigned.
-/

namespace Sys2Proof.Laws.EncodeLegal

/-- The fields of a token put together from them (R42). -/
theorem fields_of_append (arg : Word) (opc : BitVec 8) :
    (arg ++ 0#24 ++ opc).extractLsb' 8 24 = 0#24 ∧ (arg ++ 0#24 ++ opc).extractLsb' 0 8 = opc := by
  constructor <;> apply BitVec.eq_of_getLsbD_eq <;> intro k hk
  · have h1 : ¬ 8 + k < 8 := by omega
    rw [BitVec.getLsbD_extractLsb', BitVec.getLsbD_append, BitVec.getLsbD_append]
    simp only [h1, if_false]
    simp
    omega
  · rw [BitVec.getLsbD_extractLsb', BitVec.getLsbD_append]
    simp [hk]

/-- The token of a command is well formed. -/
def Statement (i : Instr) : Prop := tokenWellFormed (encode i) = true

theorem legal_of_opcode {i : Instr} (h1 : 1 ≤ (opcodeOf i).toNat) (h7 : (opcodeOf i).toNat ≤ 7) : Statement i := by
  have h := fields_of_append (operandOf i) (opcodeOf i)
  simp [Statement, tokenWellFormed, reservedBitsZero, opcodeAssigned, encode, h.1, h.2, h1, h7]

theorem seeds (seed : Word) : Statement (.seeds seed) := legal_of_opcode (by simp [opcodeOf]) (by simp [opcodeOf])
theorem kclr : Statement .kclr := legal_of_opcode (by decide) (by decide)
theorem kpush (key : Word) : Statement (.kpush key) := legal_of_opcode (by simp [opcodeOf]) (by simp [opcodeOf])
theorem seeda : Statement .seeda := legal_of_opcode (by decide) (by decide)
theorem draw : Statement .draw := legal_of_opcode (by decide) (by decide)
theorem draw31 : Statement .draw31 := legal_of_opcode (by decide) (by decide)
theorem rdstat : Statement .rdstat := legal_of_opcode (by decide) (by decide)

end Sys2Proof.Laws.EncodeLegal
end

