-- ==== Sys2Proof/Tests/Slice0.lean ====
section
/-!
SUPPORT. Tests. Expected values come from the spec, mostly 95_test_vectors.md; each test names its place. At the end, for
every statement of Certificates/Slice0/Obligations.lean that has hypotheses, a theorem that something meets them.
-/

namespace Sys2Proof.Tests

open Sys2Proof.Machine

/-! ## Helpers -/

/-- The reset state with these port events to come. -/
def withInputs (l : List PortIn) : State := { State.reset with inputs := l }

/-- The response of an answer, where it is a next state. -/
def answered : Result → Option Token
  | .next t => t.rsp
  | .fault _ => none
  | .refused _ => none

/-- The state of an answer, where it is a next state. -/
def after : Result → State
  | .next t => t
  | .fault _ => State.reset
  | .refused _ => State.reset

theorem reset_nats : Fast.nats State.reset.stateVec = 0 :: List.replicate 623 0 := by
  rw [Fast.nats, State.reset]
  rw [Vector.toList_replicate, List.map_replicate]
  rfl

/-! ## Well-formedness and decoding -/

/-- RSV = 0x000001 (L2.6): refused. -/
theorem test_illformed_reserved : tokenWellFormed 0x0000000000000105#64 = false := by decide

/-- OPC 0x08 and 0x00 (L2.6): refused. -/
theorem test_illformed_opcode :
    tokenWellFormed 0x0000000000000008#64 = false ∧ tokenWellFormed 0x0000000000000000#64 = false := by decide

/-- A well-formed token: SEEDS 5489 (R51). -/
theorem test_wellformed : tokenWellFormed 0x0000157100000001#64 = true ∧ (Instr.seeds 5489#32).wellFormed = true := by
  decide

/-- SEEDS: ARG 5489, RSV 0, OPC 0000 0001, bit by bit (R42, R44). -/
theorem test_decode_seeds :
    decode 0b0000000000000000000101010111000100000000000000000000000000000001#64 = .command (.seeds 5489#32) := by decide
/-- KCLR: OPC 0000 0010, ARG all ones (R44, L2.6). -/
theorem test_decode_kclr :
    decode 0b1111111111111111111111111111111100000000000000000000000000000010#64 = .command .kclr := by decide
/-- KPUSH: ARG 0x123, OPC 0000 0011 (R44, R51). -/
theorem test_decode_kpush :
    decode 0b0000000000000000000000010010001100000000000000000000000000000011#64 = .command (.kpush 0x123#32) := by decide
/-- SEEDA: OPC 0000 0100 (R44). -/
theorem test_decode_seeda :
    decode 0b0000000000000000000000000000000000000000000000000000000000000100#64 = .command .seeda := by decide
/-- DRAW: OPC 0000 0101 (R44). -/
theorem test_decode_draw :
    decode 0b0000000000000000000000000000000000000000000000000000000000000101#64 = .command .draw := by decide
/-- DRAW31: OPC 0000 0110 (R44). -/
theorem test_decode_draw31 :
    decode 0b0000000000000000000000000000000000000000000000000000000000000110#64 = .command .draw31 := by decide
/-- RDSTAT: OPC 0000 0111 (R44). -/
theorem test_decode_rdstat :
    decode 0b0000000000000000000000000000000000000000000000000000000000000111#64 = .command .rdstat := by decide
/-- RSV bit 31 (L2.6): illegal although OPC is SEEDA's. -/
theorem test_decode_reserved_first : decode 0x0000000080000004#64 = .illegal .reservedBits := by decide
/-- OPC 0xFF (L2.6). -/
theorem test_decode_ff : decode 0x00000000000000FF#64 = .illegal .reservedOpcode := by decide
/-- KPUSH 0x123 as encoded (R51). -/
theorem test_encode_kpush : encode (.kpush 0x123#32) = 0x0000012300000003#64 := by decide
/-- SEEDS 5489 as stored bytes (R29, R51), and a buffer too short for a token. -/
theorem test_bytes : wordBytes 0x0000157100000001#64 = [1#8, 0#8, 0#8, 0#8, 0x71#8, 0x15#8, 0#8, 0#8] ∧
    decodeBytes [1#8, 0#8] = .truncated := by decide
/-- The host's two questions on the table's rows. -/
theorem test_table_words : decodeTableWord 64 4 = some .seeda ∧ decodeTableWord 32 1 = some (.seeds 0#32) := by decide

/-! ## Arithmetic -/

/-- fold30 (L2.1). -/
theorem test_fold30 : fold30 0xC0000000#32 = 0xC0000003#32 ∧ fold30 0x12345678#32 = 0x12345678#32 := by decide
/-- mix, where OR would give 0x2BB45558 (L2.1). -/
theorem test_mix : mix 0x12345678#32 kScalar = 0x2E345558#32 ∧ mix 0xFFFFFFFF#32 kPass2 = 0xA2A7749B#32 := by decide
/-- temper (L2.1). -/
theorem test_temper : temper 0x9B0AFA27#32 = 3499211612#32 ∧ temper 0xDEADBEEF#32 = 0xE016575D#32 := by decide

/-! ## Seeding -/

/-- SEEDS 5489 (R62): words 1, 2 and 623. -/
theorem test_seeds_5489 : ∃ t, exec (.seeds 5489#32) State.reset = .next t ∧ t.cursor = 624#10 ∧
    stateRead t.stateVec 1 = 0x4D98EE96#32 ∧ stateRead t.stateVec 623 = 0x04C46D8C#32 := by
  refine ⟨_, rfl, rfl, ?_, ?_⟩ <;> apply BitVec.eq_of_toNat_eq <;>
    rw [respond_stateVec, seedScalar_stateVec, ← Fast.nats_get, Fast.seedVec_nats _ reset_nats] <;> decide +kernel

/-- SEEDS 0 (L2.2): words 1 and 3. -/
theorem test_seeds_0 : ∃ t, exec (.seeds 0#32) State.reset = .next t ∧
    stateRead t.stateVec 1 = 1#32 ∧ stateRead t.stateVec 3 = 0x714ACB41#32 := by
  refine ⟨_, rfl, ?_, ?_⟩ <;> apply BitVec.eq_of_toNat_eq <;>
    rw [respond_stateVec, seedScalar_stateVec, ← Fast.nats_get, Fast.seedVec_nats _ reset_nats] <;> decide +kernel

/-- The reset state with the four standard keys loaded (P2). -/
def fourKeys : State :=
  { State.reset with keyBuf := [(0, 0x123#32), (1, 0x234#32), (2, 0x345#32), (3, 0x456#32)], keyLen := 4#16 }

/-- The words of the standard SEEDA, as the fast form computes them. -/
def fourKeyWords : List Nat :=
  (Fast.pass1Walk (fun j => (keyRead fourKeys j).toNat) 4 623 (max 624 4) 1 0 19650218 []
    (Fast.seedWalk (List.replicate 623 0) 1 19650218 []).tail).set 0 2147483648

theorem seedWalk_head : ∀ (rest : List Nat) (i p : Nat) (done : List Nat),
    (Fast.seedWalk rest i p done).head? = (p :: done).reverse.head?
  | [], _, _, _ => rfl
  | _ :: rest, i, p, done => by
    rw [Fast.seedWalk, Fast.force_eq, seedWalk_head]
    simp [List.head?_append]

theorem fourKeyWords_eq : Fast.nats (seedArray 4 fourKeys).stateVec = fourKeyWords := by
  have hb : Fast.nats (seedVec arrayBaseSeed fourKeys.stateVec) =
      19650218 :: (Fast.seedWalk (List.replicate 623 0) 1 19650218 []).tail := by
    have h := Fast.seedVec_nats arrayBaseSeed (v := fourKeys.stateVec) reset_nats
    have hh := seedWalk_head (List.replicate 623 0) 1 19650218 []
    rw [h, show arrayBaseSeed.toNat = 19650218 from rfl]
    cases hc : Fast.seedWalk (List.replicate 623 0) 1 19650218 [] with
    | nil => rw [hc] at hh; simp at hh
    | cons x l => rw [hc] at hh; simp at hh; simp [hh]
  rw [seedArray_stateVec, Fast.seedArrayVec_nats _ _ hb]
  rfl

/-- SEEDA over the four standard keys (R65): words 0, 1, 2 and 623. -/
theorem test_seeda_four_keys : ∃ t, exec .seeda fourKeys = .next t ∧ t.cursor = 624#10 ∧
    [0, 1, 2, 623].map (fun i => (stateRead t.stateVec i).toNat) = [0x80000000, 0x6CF23357, 0x51BE5D6D, 0x049ED813] := by
  refine ⟨_, rfl, rfl, ?_⟩
  rw [respond_stateVec]
  simp only [← Fast.nats_get, show fourKeys.keyLen.toNat = 4 from rfl, fourKeyWords_eq]
  decide +kernel

/-- SEEDA without keys (R90): INVALID_SEED. -/
theorem test_seeda_empty : answered (exec .seeda State.reset) = some 0x0000000000000001#64 := by decide

/-- KPUSH 0x123 from KEYLEN 0 (R64). -/
theorem test_kpush : (after (exec (.kpush 0x123#32) State.reset)).keyLen = 1#16 ∧
    keyRead (after (exec (.kpush 0x123#32) State.reset)) 0 = 0x123#32 := by decide +kernel

/-- KCLR with KEYLEN 4 (R63): the words stay. -/
theorem test_kclr : (after (exec .kclr fourKeys)).keyLen = 0#16 ∧
    (after (exec .kclr fourKeys)).keyBuf = fourKeys.keyBuf := by decide

/-! ## Draws -/

/-- STATE[0] after the first twist of seed 5489 (L2.1). -/
theorem first_word_5489 : stateRead (twistVec (seedVec 5489#32 State.reset.stateVec)) 0 = 0x9B0AFA27#32 := by
  apply BitVec.eq_of_toNat_eq
  rw [← Fast.nats_get, Fast.twistVec_nats (Fast.seedVec_nats _ reset_nats)]
  decide +kernel

/-- DRAW after reset (R75): 3499211612, CURSOR 1, as the first token the host offers. -/
theorem test_draw_after_reset : ∃ t, step (State.reset.withFetchWord 64 5) = .next t ∧ t.cursor = 1#10 ∧
    t.rsp = some 0xD091BB5C00000000#64 := by
  refine ⟨_, rfl, rfl, ?_⟩
  show some (responseWord .ok (temper (stateRead (twistVec (seedVec 5489#32 State.reset.stateVec)) 0))) = _
  rw [first_word_5489]
  decide

/-- DRAW31 after SEEDS 5489 (R76): 1749605806. -/
theorem test_draw31_after_seeds : ∃ t, exec .draw31 (seedScalar 5489#32 State.reset) = .next t ∧ t.cursor = 1#10 ∧
    t.rsp = some 0x6848DDAE00000000#64 := by
  refine ⟨_, rfl, rfl, ?_⟩
  show some (responseWord .ok (temper (stateRead (twistVec (seedVec 5489#32 State.reset.stateVec)) 0) >>> 1)) = _
  rw [first_word_5489]
  decide

/-- DRAW after the standard SEEDA (P2): 1067595299. -/
theorem test_draw_after_seeda : ∃ t, exec .draw (seedArray 4 fourKeys) = .next t ∧
    t.rsp = some 0x3FA2362300000000#64 := by
  refine ⟨_, rfl, ?_⟩
  show some (responseWord .ok (temper (stateRead (twistVec (seedArray 4 fourKeys).stateVec) 0))) = _
  have h : stateRead (twistVec (seedArray 4 fourKeys).stateVec) 0 = 0x266EF095#32 := by
    apply BitVec.eq_of_toNat_eq
    rw [← Fast.nats_get, Fast.twistVec_nats fourKeyWords_eq]
    decide +kernel
  rw [h]
  decide

/-- The twist of the vector of all ones (L2.3): one word of each segment, and the last. -/
theorem test_twist_ones :
    [0, 226, 227, 453, 454, 622, 623].map (fun i => (stateRead (twistVec (Vector.replicate 624 0xFFFFFFFF#32)) i).toNat) =
      [0x1908B0DF, 0x1908B0DF, 0xFFFFFFFF, 0xFFFFFFFF, 0x1908B0DF, 0x1908B0DF, 0x2A73174F] := by
  have h : Fast.nats (Vector.replicate 624 0xFFFFFFFF#32) = List.replicate 624 4294967295 := by
    rw [Fast.nats, Vector.toList_replicate, List.map_replicate]
    rfl
  simp only [← Fast.nats_get, Fast.twistVec_nats h]
  decide +kernel

/-- DRAW at CURSOR 623 (R75): no twist, CURSOR 624. -/
theorem test_draw_last_word : (after (exec .draw { State.reset with cursor := 623#10 })).cursor = 624#10 ∧
    answered (exec .draw { State.reset with cursor := 623#10 }) = some 0#64 := by decide +kernel

/-! ## Status, port, reset -/

/-- RDSTAT after reset, and after SEEDARR of four keys and five draws (L2.4). -/
theorem test_rdstat : answered (exec .rdstat State.reset) = some 0x0000027100000000#64 ∧
    answered (exec .rdstat { State.reset with cursor := 5#10, keyLen := 4#16 }) = some 0x0004040500000000#64 := by decide

/-- An illegal token, RSV not zero (P4 command 7): ILLEGAL_COMMAND and no word consumed. -/
theorem test_illegal_answer : answered (step (withInputs [offer 0x0000000000000105#64])) = some 3#64 ∧
    (after (step (withInputs [offer 0x0000000000000105#64]))).cursor = 625#10 := by decide

/-- Reset while the response of a command is pending (L2.7): no response, KEYLEN 0. -/
theorem test_reset_abandons :
    (after (step { fourKeys with rsp := some 0#64, inputs := [{ rst := true, cmd := none, rspReady := true }] })).rsp
      = none ∧
    (after (step { fourKeys with rsp := some 0#64, inputs := [{ rst := true, cmd := none, rspReady := true }] })).keyLen
      = 0#16 := by decide

/-! ## Host functions and assembler -/

/-- The constant 1/4294967295 is 0x1.0000000100000p-32 (R80). -/
theorem test_recip : recip64 4294967295 = { sig := 0x10000000100000, exp := -84 } := by decide +kernel
/-- real53 of the first two words of seed 5489 is the double nearest to 0.8147236863931789 (R83). -/
theorem test_real53 : real53 3499211612#32 581869302#32 = roundBinary64 8147236863931789 10000000000000000 0 := by
  decide +kernel
/-- real_closed of the first word of seed 5489 is the double nearest to 0.8147236920927473 (R80). -/
theorem test_real_closed : realClosed 3499211612#32 = roundBinary64 8147236920927473 10000000000000000 0 := by
  decide +kernel
/-- The host seed -1 (L2.5). -/
theorem test_reduce : reduceValue (-1) = 0xFFFFFFFF#32 ∧ reduceValue (4294967296 + 5489) = 5489#32 := by decide

/-- A key out of range is reduced like a seed before its KPUSH (R43, R85, U17): 2^32 + 0x123 and -1. -/
theorem test_reduce_keys : ∃ t, pushKeys [4294967296 + 0x123, -1] State.reset = .ok t ∧ t.keyLen = 2#16 ∧
    keyRead t 0 = 0x123#32 ∧ keyRead t 1 = 0xFFFFFFFF#32 := ⟨_, rfl, rfl, rfl, rfl⟩

/-- `kpush 0x123 ; key` in small letters with a comment (R49). -/
theorem test_assemble_line :
    Assembler.readLine ['k', 'p', 'u', 's', 'h', ' ', '0', 'x', '1', '2', '3', ' ', ';', ' ', 'k']
      = .ok (.command (.kpush 0x123#32)) := rfl
/-- A value given to DRAW is refused (R49). -/
theorem test_assemble_refuses :
    Assembler.readLine ['D', 'R', 'A', 'W', ' ', '1'] = .error .unexpectedValue := rfl

/-! ## Something meets the hypotheses of each statement that has them -/

/-- A state with CURSOR `c` and KEYLEN `n`, one key listed. -/
def sample (c : BitVec 10) (n : BitVec 16) : State :=
  { State.reset with cursor := c, keyLen := n, keyBuf := [(0, 7#32)] }

theorem witness_DecodeOfEncode : (Instr.kpush 0xFFFFFFFF#32).wellFormed = true ∧ Instr.draw.wellFormed = true := by decide

theorem witness_EncodeOfDecode : decode 0xDEADBEEF00000005#64 = .command .draw ∧
    decode 0xFFFFFFFF00000001#64 = .command (.seeds 0xFFFFFFFF#32) := by decide

theorem witness_IllegalExactlyWhenReserved : (0x0000000000000105#64).extractLsb' 8 24 ≠ 0#24 := by decide

theorem witness_TemperIsBijective : ∃ y0 y1 y2 y3 : Word, (1 : Nat) ≤ 31 ∧ y1 = y0 ^^^ ((y0 >>> 11) &&& 0xFFFFFFFF#32) ∧
    y2 = y1 ^^^ ((y1 <<< 7) &&& 0x9D2C5680#32) ∧ y3 = y2 ^^^ ((y2 <<< 15) &&& 0xEFC60000#32) :=
  ⟨0x80000000#32, _, _, _, by decide, rfl, rfl, rfl⟩

/-- The vector with one word everywhere but at 0. -/
def oneBit (w : Word) : StateVec := (Vector.replicate 624 0#32).set 0 w

theorem oneBit_zero (w : Word) : stateRead (oneBit w) 0 = w := by simp [stateRead, oneBit]

theorem oneBit_other (w : Word) (i : Nat) (h1 : 1 ≤ i) (h2 : i < 624) : stateRead (oneBit w) i = 0#32 := by
  have : (0 : Nat) ≠ i := by omega
  simp [stateRead, oneBit, h2, this]

theorem witness_TwistReadsOneBitOfWordZero :
    (∀ i, 1 ≤ i → i < 624 → stateRead (oneBit 0x80000000#32) i = stateRead (oneBit 0xFFFFFFFF#32) i) ∧
    (stateRead (oneBit 0x80000000#32) 0).getLsbD 31 = (stateRead (oneBit 0xFFFFFFFF#32) 0).getLsbD 31 :=
  ⟨fun i h1 h2 => by rw [oneBit_other _ i h1 h2, oneBit_other _ i h1 h2], by rw [oneBit_zero, oneBit_zero]; decide⟩

theorem witness_TwistOfOneBitVector :
    (stateRead (oneBit 0x80000000#32) 0 = 0x80000000#32 ∧
      ∀ i, 1 ≤ i → i < 624 → stateRead (oneBit 0x80000000#32) i = 0#32) ∧
    (∀ i, i < 624 → stateRead (Vector.replicate 624 0#32) i = 0#32) :=
  ⟨⟨oneBit_zero _, oneBit_other _⟩, fun i h => by simp [stateRead, h]⟩

/-- A state before the event at which host 2 offers token `t`. -/
def offered (t : Token) : State := withInputs [{ rst := false, cmd := some (2, t), rspReady := false }]

theorem witness_StepRunsDecodedCommand : ∃ e, (offered 5#64).inputs = e :: [] ∧ e.rst = false ∧
    (offered 5#64).rsp = none ∧ e.cmd = some (2, 5#64) ∧ decode 5#64 = .command .draw :=
  ⟨_, rfl, rfl, rfl, rfl, by decide⟩

theorem witness_StepAnswersIllegalCommand : ∃ e, (offered 8#64).inputs = e :: [] ∧ e.rst = false ∧
    (offered 8#64).rsp = none ∧ e.cmd = some (2, 8#64) ∧ decode 8#64 = .illegal .reservedOpcode :=
  ⟨_, rfl, rfl, rfl, rfl, by decide⟩

/-- A state with a response pending before the event at which the host is ready, or not. -/
def pending (ready : Bool) : State :=
  { withInputs [{ rst := false, cmd := some (0, 5#64), rspReady := ready }] with rsp := some 0x1#64 }

theorem witness_StepTransfersResponse : ∃ e, (pending true).inputs = e :: [] ∧ e.rst = false ∧
    (pending true).rsp = some 0x1#64 ∧ e.rspReady = true := ⟨_, rfl, rfl, rfl, rfl⟩

theorem witness_StepHoldsUntakenResponse : ∃ e, (pending false).inputs = e :: [] ∧ e.rst = false ∧
    (pending false).rsp = some 0x1#64 ∧ e.rspReady = false := ⟨_, rfl, rfl, rfl, rfl⟩

theorem witness_StepReset : ∃ e, (withInputs [{ rst := true, cmd := some (0, 5#64), rspReady := true }]).inputs = e :: []
    ∧ e.rst = true := ⟨_, rfl, rfl⟩

theorem witness_StepIdle : ∃ e, (withInputs [{ rst := false, cmd := none, rspReady := true }]).inputs = e :: [] ∧
    e.rst = false ∧ State.reset.rsp = none ∧ e.cmd = none ∧ State.reset.inputs = [] := ⟨_, rfl, rfl, rfl, rfl, rfl⟩

theorem witness_ErrorWritesNothing : ∃ t r, exec .seeda State.reset = .next t ∧ t.rsp = some r ∧ codeField r ≠ 0x00#8 :=
  ⟨_, _, rfl, rfl, by decide⟩

theorem witness_CommandLeavesHostSide : ∃ t, exec .draw (sample 624#10 1#16) = .next t := ⟨_, rfl⟩

theorem witness_KeyBufferWrittenOnlyByKpush : (∃ t, exec .seeda (sample 624#10 1#16) = .next t) ∧
    (∀ key, Instr.seeda ≠ .kpush key) ∧ Instr.seeda ≠ .kclr := ⟨⟨_, rfl⟩, fun key h => (nomatch h), by decide⟩

theorem witness_StateVectorFrame : (∃ t, exec .draw (sample 623#10 1#16) = .next t) ∧
    (sample 623#10 1#16).cursor.toNat < 624 ∧ (∃ t, exec .rdstat (sample 623#10 1#16) = .next t) ∧
    (∃ t, exec (.kpush 1#32) (sample 623#10 1#16) = .next t) := ⟨⟨_, rfl⟩, by decide, ⟨_, rfl⟩, ⟨_, rfl⟩⟩

/-- A state in mid-sequence with one key and a delivered response. -/
def midRun : State := { sample 624#10 1#16 with delivered := [(0, 0#64)], cmdIdx := 1 }

theorem midRun_inv : midRun.Inv where
  cursorRange := by decide
  keyLenRange := by have := Config.keyMax_ge; simp only [midRun, sample]; simp; omega
  keysCanonical := by decide
  keysInRange := by have := Config.keyMax_ge; simp [midRun, sample]; omega
  pendingLegal := by simp [midRun, sample, State.reset]
  deliveredLegal := by simp [midRun, rspLegal, codeField, dataField]
  completedCount := rfl

theorem witness_StepKeepsInvariant : ∃ s t : State, s.Inv ∧ step s = .next t := ⟨midRun, _, midRun_inv, rfl⟩

theorem witness_SentinelOnlyByReset : (∃ t, step State.reset = .next t ∧ t.cursor = 625#10) ∧
    (∃ t, step { midRun with inputs := [{ rst := true, cmd := none, rspReady := false }] } = .next t ∧
      t.cursor = 625#10) := ⟨⟨_, rfl, rfl⟩, ⟨_, rfl, rfl⟩⟩

/-- Each clause of CursorAfterCommand at a boundary value. -/
theorem witness_CursorAfterCommand : (sample 623#10 0#16).cursor.toNat < 624 ∧
    ¬ (sample 624#10 0#16).cursor.toNat < 624 ∧ (sample 624#10 1#16).keyLen ≠ 0#16 ∧
    (sample 624#10 0#16).keyLen = 0#16 := by decide

/-- The reset state with other words where no rule reads. -/
def otherReset : State := { State.reset with stateVec := Vector.replicate 624 1#32, keyBuf := [(0, 7#32)], resets := 9 }

theorem reset_obsEq_other : State.reset.ObsEq otherReset where
  cursor := rfl
  keyLen := rfl
  rsp := rfl
  owner := rfl
  inputs := rfl
  cmdIdx := rfl
  delivered := rfl
  keys := by intro j h; simp [State.reset] at h
  words := by intro h; exact absurd rfl h

theorem witness_StepHidesUnobservable : ∃ s t s' : State, s ≠ t ∧ s.ObsEq t ∧ step s = .next s' :=
  ⟨State.reset, otherReset, _, by intro h; have := congrArg State.resets h; simp [State.reset, otherReset] at this,
    reset_obsEq_other, rfl⟩

theorem witness_RunsRevealOnlyObservable : ∃ s t : State, s.ObsEq t := ⟨State.reset, otherReset, reset_obsEq_other⟩

theorem witness_KclrResult : (sample 624#10 0#16).keyLen = 0#16 := rfl

theorem keyMax_word (n : Nat) (h : n ≤ Config.keyMax) : (BitVec.ofNat 16 n).toNat = n := by
  have := Config.keyMax_le
  rw [BitVec.toNat_ofNat]
  omega

theorem witness_KpushAppends : State.reset.keyLen.toNat ≠ Config.keyMax ∧
    (sample 625#10 (BitVec.ofNat 16 (Config.keyMax - 1))).keyLen.toNat ≠ Config.keyMax := by
  have := Config.keyMax_ge
  constructor
  · simp [State.reset]; omega
  · rw [show (sample 625#10 (BitVec.ofNat 16 (Config.keyMax - 1))).keyLen = BitVec.ofNat 16 (Config.keyMax - 1) from rfl,
      keyMax_word _ (by omega)]
    omega

theorem witness_KpushOverflow : (sample 625#10 (BitVec.ofNat 16 Config.keyMax)).keyLen.toNat = Config.keyMax :=
  keyMax_word _ (by omega)

theorem witness_SeedaWithoutKeys : State.reset.keyLen = 0#16 := rfl

theorem witness_SeedaResult : (sample 625#10 1#16).keyLen ≠ 0#16 ∧ fourKeys.keyLen ≠ 0#16 := by decide

theorem witness_SeedingForgetsOldState : (∃ s' t', exec (.seeds 1#32) State.reset = .next s' ∧
      exec (.seeds 1#32) midRun = .next t') ∧
    (∃ s t s' t' : State, s.keyLen ≠ 0#16 ∧ s.keyLen = t.keyLen ∧
      (∀ j, j < s.keyLen.toNat → keyRead s j = keyRead t j) ∧ exec .seeda s = .next s' ∧ exec .seeda t = .next t') :=
  ⟨⟨_, _, rfl, rfl⟩, midRun, sample 3#10 1#16, _, _, by decide, rfl, fun j _ => rfl, rfl, rfl⟩

theorem witness_IdempotentCommands : (∃ t, exec .seeda midRun = .next t) ∧ (∃ t, exec .kclr midRun = .next t) ∧
    (∃ t, exec .rdstat midRun = .next t) ∧ (∃ t, exec (.seeds 0#32) midRun = .next t) :=
  ⟨⟨_, rfl⟩, ⟨_, rfl⟩, ⟨_, rfl⟩, ⟨_, rfl⟩⟩

theorem witness_SeededTwistInputNotZero : (∃ t, exec (.seeds 0#32) midRun = .next t) ∧
    (∃ t, exec .seeda midRun = .next t) ∧ midRun.keyLen ≠ 0#16 := ⟨⟨_, rfl⟩, ⟨_, rfl⟩, by decide⟩

theorem witness_DrawWithoutTwist : (sample 623#10 0#16).cursor.toNat ≤ 623 ∧
    ∃ y0 y1 y2 y3 : Word, y0 = stateRead (sample 623#10 0#16).stateVec (sample 623#10 0#16).cursor.toNat ∧
      y1 = y0 ^^^ (y0 >>> 11) ∧ y2 = y1 ^^^ ((y1 <<< 7) &&& 0x9D2C5680#32) ∧
      y3 = y2 ^^^ ((y2 <<< 15) &&& 0xEFC60000#32) := ⟨by decide, _, _, _, _, rfl, rfl, rfl, rfl⟩

theorem witness_DrawTwistsWhenExhausted : 624 ≤ (sample 624#10 0#16).cursor.toNat ∧
    (sample 624#10 0#16).cursor ≠ 625#10 ∧ 624 ≤ (sample 1023#10 0#16).cursor.toNat ∧
    (sample 1023#10 0#16).cursor ≠ 625#10 := by decide

theorem witness_DrawSeedsAtSentinel : State.reset.cursor = 625#10 := rfl

theorem witness_DefaultFirstDraw : otherReset.cursor = 625#10 := rfl

/-- The states DRAW after DRAW goes through. -/
def drawn (s : State) : Nat → State
  | 0 => s
  | d + 1 => respond .ok (draw (drawn s d)).1 (draw (drawn s d)).2

/-- Both starts: CURSOR 624, and the sentinel. -/
theorem witness_TwistOncePer624Draws :
    (drawn (sample 624#10 0#16) 0).cursor = 624#10 ∧ (drawn State.reset 0).cursor = 625#10 ∧
    ∀ s d, ∃ t, exec .draw (drawn s d) = .next t ∧
      (drawn s (d + 1)).stateVec = t.stateVec ∧ (drawn s (d + 1)).cursor = t.cursor :=
  ⟨rfl, rfl, fun _ _ => ⟨_, rfl, rfl, rfl⟩⟩

/-- Each clause of the cursor's end in Real53DrawsTwoWords at a boundary value. -/
theorem witness_Real53DrawsTwoWords : (sample 622#10 0#16).cursor.toNat < 623 ∧ (sample 623#10 0#16).cursor.toNat = 623 ∧
    ¬ (sample 624#10 0#16).cursor.toNat < 623 ∧ (sample 624#10 0#16).cursor.toNat ≠ 623 := by decide

theorem witness_LatencyShowsTwistPoints : (sample 625#10 0#16).cursor.toNat ≤ 625 ∧
    (sample 0#10 0#16).cursor.toNat ≤ 625 ∧ ∃ why, decode 0#64 = .illegal why := ⟨by decide, by decide, _, rfl⟩

theorem witness_KeySequenceConstructor : 1 ≤ [(-1 : Int)].length ∧ [(-1 : Int)].length ≤ Config.keyMax ∧
    [(-1 : Int)][0]? = some (-1) ∧ (List.replicate Config.keyMax (5 : Int)).length ≤ Config.keyMax := by
  have := Config.keyMax_ge
  simp
  omega

theorem witness_KeySequenceConstructorFails :
    Config.keyMax < (List.replicate (Config.keyMax + 1) (5 : Int)).length := by simp

end Sys2Proof.Tests
end

section
/-!
PROOFS of 00_scope.md: the fields of a response word, what a command can answer, and from these the two statements on
a command's response.
-/

namespace Sys2Proof.Machine

/-! ## The fields of a response word (R48) -/

@[simp] theorem responseWord_reserved (code : RspCode) (data : Word) :
    (responseWord code data).extractLsb' 8 24 = 0#24 :=
  (Laws.EncodeLegal.fields_of_append data (codeByte code)).1

@[simp] theorem codeField_responseWord (code : RspCode) (data : Word) :
    codeField (responseWord code data) = codeByte code :=
  (Laws.EncodeLegal.fields_of_append data (codeByte code)).2

@[simp] theorem dataField_responseWord (code : RspCode) (data : Word) :
    dataField (responseWord code data) = data := by
  rw [dataField, responseWord, BitVec.append_assoc]
  exact BitVec.extractLsb'_append_eq_left

theorem codeByte_toNat_le (code : RspCode) : (codeByte code).toNat ≤ 3 := by
  cases code <;> decide

/-- Only OK has the code byte 0 (R89), so DATA 0 with every other code makes a response word legal. -/
theorem rspLegal_responseWord {code : RspCode} {data : Word} (h : code ≠ .ok → data = 0#32) :
    rspLegal (responseWord code data) := by
  refine ⟨responseWord_reserved code data, ?_, fun herr => ?_⟩
  · rw [codeField_responseWord]
    exact codeByte_toNat_le code
  · rw [dataField_responseWord]
    refine h fun hok => herr ?_
    rw [codeField_responseWord, hok, codeByte]

/-! ## What a command answers -/

/-- A command completes with OK, or it is SEEDA without keys or KPUSH into a full key buffer, and raises its own error
in the state it found. -/
theorem exec_cases {i : Instr} {s t : State} (h : exec i s = .next t) :
    (∃ data b, t = respond .ok data b) ∨
    (i = .seeda ∧ s.keyLen = 0#16 ∧ t = raise .invalidSeed s) ∨
    ((∃ key, i = .kpush key) ∧ s.keyLen.toNat = Config.keyMax ∧ t = raise .keyOverflow s) := by
  cases i with
  | kpush key =>
    simp only [exec, execKpush] at h
    split at h
    next hfull => cases h; exact .inr (.inr ⟨⟨key, rfl⟩, hfull, rfl⟩)
    next => cases h; exact .inl ⟨_, _, rfl⟩
  | seeda =>
    simp only [exec, execSeeda] at h
    split at h
    next hempty => cases h; exact .inr (.inl ⟨rfl, hempty, rfl⟩)
    next => cases h; exact .inl ⟨_, _, rfl⟩
  | seeds | kclr | draw | draw31 | rdstat => cases h; exact .inl ⟨_, _, rfl⟩

/-- Settles O22: `exec_cases` names the three responses there are, each legal. -/
theorem commandAnswersOneLegalResponse : Obligations.CommandAnswersOneLegalResponse := by
  intro i s
  obtain ⟨t, ht⟩ := exec_next i s
  obtain ⟨data, b, rfl⟩ | ⟨hi, -, rfl⟩ | ⟨hi, -, rfl⟩ := exec_cases ht
  · exact ⟨_, _, ht, rfl, rspLegal_responseWord fun h => absurd rfl h, .inl (codeField_responseWord ..)⟩
  · exact ⟨_, _, ht, rfl, rspLegal_responseWord fun _ => rfl, .inr (.inl ⟨codeField_responseWord .., hi⟩)⟩
  · exact ⟨_, _, ht, rfl, rspLegal_responseWord fun _ => rfl, .inr (.inr ⟨codeField_responseWord .., hi⟩)⟩

/-- Settles O23: of the answers of `exec_cases` only the two errors have a code other than OK, and `raise` writes the
response alone. -/
theorem errorWritesNothing : Obligations.ErrorWritesNothing := by
  intro i s t r h hr hc
  obtain ⟨data, b, rfl⟩ | ⟨-, -, rfl⟩ | ⟨-, -, rfl⟩ := exec_cases h
  · cases hr
    exact absurd (codeField_responseWord .ok data) hc
  · cases hr
    exact ⟨rfl, dataField_responseWord ..⟩
  · cases hr
    exact ⟨rfl, dataField_responseWord ..⟩

end Sys2Proof.Machine
end

section
/-!
PROOFS of 10_state.md: what each command writes beside its response, the passes of seeding and twist word by word, the
invariant, and what cannot be observed. From these the statements on STATE, CURSOR, KEYBUF and KEYLEN.
-/

namespace Sys2Proof.Machine

/-! ## What a command writes beside its response -/

/-- What KPUSH with room writes (R64): the key at index KEYLEN, and KEYLEN. -/
def appendKey (key : Word) (s : State) : State :=
  (keyWrite s s.keyLen.toNat key).setKeyLen (s.keyLen + 1#16)

theorem exec_kpush_of_room {key : Word} {s : State} (h : s.keyLen.toNat ≠ Config.keyMax) :
    exec (.kpush key) s = .next (respond .ok 0#32 (appendKey key s)) := if_neg h

theorem exec_kpush_of_full {key : Word} {s : State} (h : s.keyLen.toNat = Config.keyMax) :
    exec (.kpush key) s = .next (raise .keyOverflow s) := if_pos h

theorem exec_seeda_of_keys {s : State} (h : s.keyLen ≠ 0#16) :
    exec .seeda s = .next (respond .ok 0#32 (seedArray s.keyLen.toNat s)) := if_neg h

theorem exec_seeda_of_empty {s : State} (h : s.keyLen = 0#16) :
    exec .seeda s = .next (raise .invalidSeed s) := if_pos h

/-- The state a command puts its response on: all it writes beside the response. An error writes nothing (R10). -/
def commandState : Instr → State → State
  | .seeds seed, s => seedScalar seed s
  | .kclr, s => s.setKeyLen 0#16
  | .kpush key, s => if s.keyLen.toNat = Config.keyMax then s else appendKey key s
  | .seeda, s => if s.keyLen = 0#16 then s else seedArray s.keyLen.toNat s
  | .draw, s => (draw s).2
  | .draw31, s => (draw s).2
  | .rdstat, s => s

/-- Every command answers `commandState` with a response put on it, DATA being 0 with an error code. -/
theorem exec_eq_respond (i : Instr) (s : State) :
    ∃ code data, (code ≠ .ok → data = 0#32) ∧ exec i s = .next (respond code data (commandState i s)) := by
  cases i with
  | kpush key =>
    by_cases h : s.keyLen.toNat = Config.keyMax
    · exact ⟨.keyOverflow, 0#32, fun _ => rfl, by simp only [exec_kpush_of_full h, commandState, if_pos h, raise]⟩
    · exact ⟨.ok, 0#32, fun _ => rfl, by simp only [exec_kpush_of_room h, commandState, if_neg h]⟩
  | seeda =>
    by_cases h : s.keyLen = 0#16
    · exact ⟨.invalidSeed, 0#32, fun _ => rfl, by simp only [exec_seeda_of_empty h, commandState, if_pos h, raise]⟩
    · exact ⟨.ok, 0#32, fun _ => rfl, by simp only [exec_seeda_of_keys h, commandState, if_neg h]⟩
  | seeds | kclr | draw | draw31 | rdstat => exact ⟨.ok, _, fun h => absurd rfl h, rfl⟩

theorem eq_respond_of_exec {i : Instr} {s t : State} (h : exec i s = .next t) :
    ∃ code data, (code ≠ .ok → data = 0#32) ∧ t = respond code data (commandState i s) := by
  obtain ⟨code, data, hdata, he⟩ := exec_eq_respond i s
  rw [he] at h
  cases h
  exact ⟨code, data, hdata, rfl⟩

/-- No command writes what is the host's or the model's own, and none takes a pending response away before its own. -/
theorem commandState_host (i : Instr) (s : State) :
    (commandState i s).rsp = s.rsp ∧ (commandState i s).owner = s.owner ∧ (commandState i s).inputs = s.inputs ∧
      (commandState i s).cmdIdx = s.cmdIdx ∧ (commandState i s).delivered = s.delivered ∧
      (commandState i s).resets = s.resets := by
  cases i with
  | kpush key => simp only [commandState]; split <;> exact ⟨rfl, rfl, rfl, rfl, rfl, rfl⟩
  | seeda => simp only [commandState]; split <;> exact ⟨rfl, rfl, rfl, rfl, rfl, rfl⟩
  | draw | draw31 => simp [commandState]
  | seeds | kclr | rdstat => exact ⟨rfl, rfl, rfl, rfl, rfl, rfl⟩

/-- Only KPUSH writes KEYBUF, and only KPUSH and KCLR write KEYLEN (R63, R64, R114). -/
theorem commandState_keys {i : Instr} (s : State) (hi : ∀ key, i ≠ .kpush key) :
    (commandState i s).keyBuf = s.keyBuf ∧ (i ≠ .kclr → (commandState i s).keyLen = s.keyLen) := by
  cases i with
  | kpush key => exact absurd rfl (hi key)
  | kclr => exact ⟨rfl, fun h => absurd rfl h⟩
  | seeda => simp only [commandState]; split <;> exact ⟨rfl, fun _ => rfl⟩
  | draw | draw31 => simp [commandState]
  | seeds | rdstat => exact ⟨rfl, fun _ => rfl⟩

/-- Settles O24: `commandState_host` under the response. -/
theorem commandLeavesHostSide : Obligations.CommandLeavesHostSide := by
  intro i s t h
  obtain ⟨code, data, -, rfl⟩ := eq_respond_of_exec h
  exact (commandState_host i s).2

/-- Settles O25: `commandState_keys`; a word of KEYBUF is read from the list and, where nothing wrote it, from the reset
counter, and both stay. -/
theorem keyBufferWrittenOnlyByKpush : Obligations.KeyBufferWrittenOnlyByKpush := by
  intro i s t h hi
  obtain ⟨code, data, -, rfl⟩ := eq_respond_of_exec h
  obtain ⟨-, -, -, -, -, hresets⟩ := commandState_host i s
  obtain ⟨hbuf, hlen⟩ := commandState_keys s hi
  exact ⟨fun j => by simp only [keyRead, respond_keyBuf, respond_resets, hbuf, hresets], hbuf, hlen⟩

/-! ## STATE and CURSOR after a draw -/

theorem twist_stateVec (s : State) :
    (twist s).stateVec = twistVec (if s.cursor = 625#10 then seedVec defaultSeed s.stateVec else s.stateVec) := by
  simp only [twist]
  split <;> rfl

@[simp] theorem draw_stateVec (s : State) : (draw s).2.stateVec = (lazyTwist s).stateVec := rfl

/-- CURSOR after a draw, whatever it was before (R15, R73). -/
theorem draw_cursor_toNat (s : State) :
    (draw s).2.cursor.toNat = if s.cursor.toNat < 624 then s.cursor.toNat + 1 else 1 := by
  have hadd : (draw s).2.cursor = (lazyTwist s).cursor + 1#10 := rfl
  split
  next h =>
    rw [hadd, lazyTwist_of_lt h, BitVec.toNat_add, Nat.mod_eq_of_lt (by simp; omega)]
    rfl
  next h => simp [hadd, lazyTwist_of_ge (Nat.le_of_not_lt h)]

/-- Both draws leave the same STATE and CURSOR (R76). -/
theorem eq_draw_of_exec {s t : State} (h : exec .draw s = .next t ∨ exec .draw31 s = .next t) :
    t.stateVec = (draw s).2.stateVec ∧ t.cursor = (draw s).2.cursor := by
  obtain h | h := h <;> cases h <;> exact ⟨rfl, rfl⟩

/-- A command leaves CURSOR, or leaves it at 624 or below. -/
theorem commandState_cursor (i : Instr) (s : State) :
    (commandState i s).cursor = s.cursor ∨ (commandState i s).cursor.toNat ≤ 624 := by
  have hdraw : (draw s).2.cursor.toNat ≤ 624 := by
    rw [draw_cursor_toNat]
    split <;> omega
  cases i with
  | seeds => exact .inr (Nat.le_refl 624)
  | kpush key => left; simp only [commandState]; split <;> rfl
  | seeda =>
    simp only [commandState]
    split
    · exact .inl rfl
    · exact .inr (Nat.le_refl 624)
  | draw | draw31 => exact .inr hdraw
  | kclr | rdstat => exact .inl rfl

/-- Settles O26: KCLR, KPUSH and RDSTAT by what each writes, a draw by `lazyTwist_of_lt`. -/
theorem stateVectorFrame : Obligations.StateVectorFrame := by
  intro i s t h
  constructor
  · obtain ⟨code, data, -, rfl⟩ := eq_respond_of_exec h
    rintro (rfl | rfl | ⟨key, rfl⟩)
    · exact ⟨rfl, rfl⟩
    · exact ⟨rfl, rfl⟩
    · simp only [commandState, respond_stateVec, respond_cursor]
      split <;> exact ⟨rfl, rfl⟩
  · intro hi hc
    have ht : t.stateVec = (draw s).2.stateVec := by
      obtain rfl | rfl := hi
      · exact (eq_draw_of_exec (.inl h)).1
      · exact (eq_draw_of_exec (.inr h)).1
    rw [ht, draw_stateVec, lazyTwist_of_lt hc]

/-- Settles O31: the cursor of `commandState`, one clause per kind of command. -/
theorem cursorAfterCommand : Obligations.CursorAfterCommand := by
  intro i s
  obtain ⟨code, data, -, he⟩ := exec_eq_respond i s
  refine ⟨_, he, ?_, ?_, ?_⟩
  · rintro (⟨seed, rfl⟩ | ⟨rfl, hkeys⟩)
    · rfl
    · simp [commandState, hkeys]
  · intro hi
    have hc : (respond code data (commandState i s)).cursor = (draw s).2.cursor := by
      obtain rfl | rfl := hi <;> rfl
    rw [hc, draw_cursor_toNat]
    split <;> omega
  · rintro (rfl | rfl | ⟨rfl, hempty⟩ | ⟨key, rfl⟩)
    · rfl
    · rfl
    · simp [commandState, hempty]
    · simp only [commandState, respond_cursor]
      split <;> rfl

/-- Settles O30: of the cases of `step_cases` only reset and a command write CURSOR, and `commandState_cursor` says
that no command brings it to 625. -/
theorem sentinelOnlyByReset : Obligations.SentinelOnlyByReset := by
  intro s t h ht
  obtain ⟨-, rfl⟩ | ⟨e, rest, hin, hstep⟩ := step_cases h
  · exact .inl ht
  obtain ⟨hrst, -⟩ | ⟨-, r, -, ⟨-, rfl⟩ | ⟨-, rfl⟩⟩ | ⟨-, -, host, tok, i, -, -, he⟩ |
    ⟨-, -, host, tok, why, -, -, rfl⟩ | ⟨-, -, -, rfl⟩ := hstep
  · exact .inr ⟨e, rest, hin, hrst⟩
  · exact .inl ht
  · exact .inl ht
  · obtain ⟨code, data, -, rfl⟩ := eq_respond_of_exec he
    left
    obtain hc | hc := commandState_cursor i ((s.setInputs rest).setOwner host)
    · exact hc.symm.trans ht
    · rw [respond_cursor] at ht
      rw [ht] at hc
      exact absurd hc (by decide)
  · exact .inl ht
  · exact .inl ht

/-! ## KPUSH -/

/-- Every key word after KPUSH with room (R64). -/
theorem keyRead_appendKey (key : Word) (s : State) (j : Nat) :
    keyRead (appendKey key s) j = if j = s.keyLen.toNat then key else keyRead s j := by
  have hread : keyRead (appendKey key s) j = keyRead (keyWrite s s.keyLen.toNat key) j := rfl
  rw [hread]
  split
  next h => rw [h, keyRead_write_same]
  next h => rw [keyRead_write_ne s (Ne.symm h)]

/-- Settles O36: `appendKey` is the state claimed, and `keyRead_appendKey` gives its words. -/
theorem kpushAppends : Obligations.KpushAppends := by
  intro key s hroom
  refine ⟨keyInsert s.keyLen.toNat key s.keyBuf, _, rfl, exec_kpush_of_room hroom, ?_, fun j hj => ?_⟩
  · exact (keyRead_appendKey key s _).trans (if_pos rfl)
  · exact (keyRead_appendKey key s j).trans (if_neg hj)

/-! ## The invariant -/

/-- Settles O27: the fields of State.reset, and its status word evaluated. -/
theorem resetState : Obligations.ResetState := ⟨rfl, rfl, rfl, by decide⟩

/-- Settles O28: clause by clause; both lists of the reset state are empty and no response is pending. -/
theorem resetMeetsInvariant : Obligations.ResetMeetsInvariant where
  cursorRange := by decide
  keyLenRange := Nat.zero_le _
  keysCanonical := reset_keysRising
  keysInRange := fun _ hp => absurd hp List.not_mem_nil
  pendingLegal := fun _ hr => nomatch hr
  deliveredLegal := fun _ hp => absurd hp List.not_mem_nil
  completedCount := rfl

theorem State.Inv.setInputs {s : State} (h : s.Inv) (l : List PortIn) : (s.setInputs l).Inv := { h with }

theorem State.Inv.setOwner {s : State} (h : s.Inv) (host : Nat) : (s.setOwner host).Inv := { h with }

theorem State.Inv.respond {s : State} (h : s.Inv) {code : RspCode} {data : Word} (hdata : code ≠ .ok → data = 0#32) :
    (respond code data s).Inv :=
  { h with pendingLegal := fun r hr => by cases hr; exact rspLegal_responseWord hdata }

theorem State.Inv.applyReset {s : State} (h : s.Inv) : (applyReset s).Inv :=
  { h with
    cursorRange := Nat.le_refl 625
    keyLenRange := Nat.zero_le _
    keysCanonical := rfl
    keysInRange := fun _ hp => absurd hp List.not_mem_nil
    pendingLegal := fun _ hr => nomatch hr }

theorem State.Inv.deliver {s : State} (h : s.Inv) {r : Token} (hr : s.rsp = some r) : (deliver r s).Inv :=
  { h with
    pendingLegal := fun _ hr => nomatch hr
    deliveredLegal := fun p hp => by
      obtain hp | hp := List.mem_append.1 hp
      · exact h.deliveredLegal p hp
      · obtain rfl := List.mem_singleton.1 hp
        exact h.pendingLegal r hr
    completedCount := by simp [h.completedCount] }

/-- KEYLEN + 1 does not wrap below KEY_MAX (R16, R17). -/
theorem keyLen_succ_toNat {n : BitVec 16} (h : n.toNat < Config.keyMax) : (n + 1#16).toNat = n.toNat + 1 := by
  have := Config.keyMax_le
  rw [BitVec.toNat_add, Nat.mod_eq_of_lt (by simp; omega)]
  rfl

theorem State.Inv.appendKey {s : State} (h : s.Inv) (hroom : s.keyLen.toNat ≠ Config.keyMax) (key : Word) :
    (appendKey key s).Inv :=
  have hlt : s.keyLen.toNat < Config.keyMax := Nat.lt_of_le_of_ne h.keyLenRange hroom
  { h with
    keyLenRange := (keyLen_succ_toNat hlt).symm ▸ hlt
    keysCanonical := keysRising_insert _ _ _ h.keysCanonical
    keysInRange := fun p hp => by
      obtain rfl | hp := mem_keyInsert hp
      · exact hlt
      · exact h.keysInRange p hp }

/-- What any command writes keeps the invariant: CURSOR by `commandState_cursor`, the host's side by
`commandState_host`, the keys by the three commands that touch KEYLEN or KEYBUF. -/
theorem State.Inv.commandState {s : State} (h : s.Inv) (i : Instr) : (commandState i s).Inv := by
  obtain ⟨hrsp, -, -, hidx, hdel, -⟩ := commandState_host i s
  have hkeys : (Machine.commandState i s).keyLen.toNat ≤ Config.keyMax ∧
      keysRising (Machine.commandState i s).keyBuf = true ∧
      ∀ p ∈ (Machine.commandState i s).keyBuf, p.1 < Config.keyMax := by
    by_cases hpush : ∃ key, i = .kpush key
    · obtain ⟨key, rfl⟩ := hpush
      simp only [Machine.commandState]
      split
      next => exact ⟨h.keyLenRange, h.keysCanonical, h.keysInRange⟩
      next hroom =>
        have ha := h.appendKey hroom key
        exact ⟨ha.keyLenRange, ha.keysCanonical, ha.keysInRange⟩
    · obtain ⟨hbuf, hlen⟩ := commandState_keys s (not_exists.1 hpush)
      rw [hbuf]
      refine ⟨?_, h.keysCanonical, h.keysInRange⟩
      by_cases hclr : i = .kclr
      · subst hclr
        exact Nat.zero_le _
      · rw [hlen hclr]
        exact h.keyLenRange
  obtain ⟨hlen, hrising, hrange⟩ := hkeys
  refine ⟨?_, hlen, hrising, hrange, ?_, ?_, ?_⟩
  · obtain hc | hc := commandState_cursor i s
    · rw [hc]
      exact h.cursorRange
    · omega
  · rw [hrsp]
    exact h.pendingLegal
  · rw [hdel]
    exact h.deliveredLegal
  · rw [hidx, hdel]
    exact h.completedCount

/-- Settles O29: each case of `step_cases` is a composition of the operations above, each of which keeps the
invariant. -/
theorem stepKeepsInvariant : Obligations.StepKeepsInvariant := by
  intro s t hinv h
  obtain ⟨-, rfl⟩ | ⟨e, rest, -, hstep⟩ := step_cases h
  · exact hinv
  have hs := hinv.setInputs rest
  obtain ⟨-, rfl⟩ | ⟨-, r, hr, ⟨-, rfl⟩ | ⟨-, rfl⟩⟩ | ⟨-, -, host, tok, i, -, -, he⟩ |
    ⟨-, -, host, tok, why, -, -, rfl⟩ | ⟨-, -, -, rfl⟩ := hstep
  · exact hs.applyReset
  · exact hs.deliver hr
  · exact hs
  · obtain ⟨code, data, hdata, rfl⟩ := eq_respond_of_exec he
    exact ((hs.setOwner host).commandState i).respond hdata
  · exact (hs.setOwner host).respond fun _ => rfl
  · exact hs

/-! ## The words SeedScalar leaves (R58, R59) -/

/-- The split form of R57 is one 32-bit multiply (R58). -/
theorem mix_eq_mul (s k : Word) : mix s k = s * k := by
  have hsplit : (s.extractLsb' 16 16).setWidth 32 * 65536#32 + (s.extractLsb' 0 16).setWidth 32 = s := by
    apply BitVec.eq_of_toNat_eq
    have hlt := s.isLt
    simp [Nat.shiftRight_eq_div_pow]
    omega
  calc mix s k
      = (s.extractLsb' 16 16).setWidth 32 * k * 65536#32 + (s.extractLsb' 0 16).setWidth 32 * k := by
        simp only [mix, BitVec.shiftLeft_eq_mul_twoPow]
        rfl
    _ = ((s.extractLsb' 16 16).setWidth 32 * 65536#32 + (s.extractLsb' 0 16).setWidth 32) * k := by
        rw [BitVec.add_mul, BitVec.mul_assoc, BitVec.mul_comm k, ← BitVec.mul_assoc]
    _ = s * k := by rw [hsplit]

/-- The recurrence of R59 on the words below `n`. -/
def SeededBelow (seed : Word) (n : Nat) (v : StateVec) : Prop :=
  stateRead v 0 = seed ∧
  ∀ i, 1 ≤ i → i < n →
    stateRead v i = (stateRead v (i - 1) ^^^ (stateRead v (i - 1) >>> 30)) * 1812433253#32 + BitVec.ofNat 32 i

/-- One iteration adds the word at its index and leaves those below. -/
theorem seedBody_seededBelow {seed : Word} {n : Nat} {v : StateVec} (h1 : 1 ≤ n) (hn : n < 624)
    (h : SeededBelow seed n v) : SeededBelow seed (n + 1) (seedBody n v) := by
  obtain ⟨h0, hrec⟩ := h
  have hkeep : ∀ j, j < n → stateRead (seedBody n v) j = stateRead v j := fun j hj =>
    stateRead_write_ne _ _ (by omega)
  refine ⟨(hkeep 0 h1).trans h0, fun i hi1 hin => ?_⟩
  rw [hkeep (i - 1) (by omega)]
  obtain hlt | rfl := Nat.lt_succ_iff_lt_or_eq.1 hin
  · rw [hkeep i hlt, hrec i hi1 hlt]
  · rw [seedBody, stateRead_write_same _ _ _ hn, mix_eq_mul]
    rfl

theorem seedVec_seeded (seed : Word) (v : StateVec) : ScalarSeeded seed (seedVec seed v) := by
  rw [seedVec]
  refine forRange_induct (SeededBelow seed) (by decide) ⟨stateRead_write_same _ _ _ (by decide), ?_⟩
    fun _ _ h1 hn h => seedBody_seededBelow h1 hn h
  intro i h1 h2
  omega

/-- The recurrence fixes every word. -/
theorem ScalarSeeded.unique {seed : Word} {v w : StateVec} (hv : ScalarSeeded seed v) (hw : ScalarSeeded seed w) :
    v = w := by
  obtain ⟨hv0, hv⟩ := hv
  obtain ⟨hw0, hw⟩ := hw
  refine stateVec_ext fun i => ?_
  induction i with
  | zero => exact fun _ => hv0.trans hw0.symm
  | succ i ih =>
    intro hi
    rw [hv (i + 1) (by omega) hi, hw (i + 1) (by omega) hi, Nat.add_sub_cancel, ih (by omega)]

/-- SeedScalar forgets the old STATE (R59). -/
theorem seedVec_forgets (seed : Word) (v w : StateVec) : seedVec seed v = seedVec seed w :=
  (seedVec_seeded seed v).unique (seedVec_seeded seed w)

/-- Two words in a row are not both zero: the index is added to each (R59, R24 item 4). -/
theorem ScalarSeeded.exists_ne_zero {seed : Word} {v : StateVec} (h : ScalarSeeded seed v) :
    ∃ x, 1 ≤ x ∧ x < 624 ∧ stateRead v x ≠ 0#32 := by
  by_cases h1 : stateRead v 1 = 0#32
  · refine ⟨2, by decide, by decide, ?_⟩
    rw [h.2 2 (by decide) (by decide), h1]
    decide
  · exact ⟨1, by decide, by decide, h1⟩

/-! ## The words SeedArray leaves (R60) -/

/-- The last write of SeedArray (R60). -/
theorem seedArrayVec_zero (key : Nat → Word) (len : Nat) (base : StateVec) :
    stateRead (seedArrayVec key len base) 0 = arrayState0 := by
  rw [seedArrayVec]
  exact stateRead_write_same _ _ _ (by decide)

/-- Two loops agree when their bodies agree wherever the loop can be. -/
theorem forCount_congr {α : Type} (P : α → Prop) {n a : Nat} {f g : Nat → α → α} {x : α} (h0 : P x)
    (hf : ∀ i y, P y → P (f i y)) (hfg : ∀ i y, P y → f i y = g i y) : forCount n a f x = forCount n a g x := by
  induction n generalizing a x with
  | zero => simp
  | succ n ih => rw [forCount_succ, forCount_succ, ← hfg a x h0, ih (hf a x h0)]

/-- SeedArray reads no key at or above the length: `j` stays below it (R60). -/
theorem seedArrayVec_congr {key key' : Nat → Word} {len : Nat} (base : StateVec) (hlen : 0 < len)
    (h : ∀ j, j < len → key j = key' j) : seedArrayVec key len base = seedArrayVec key' len base := by
  have hstay : ∀ k p, (pass1Body key len k p).j < len := by
    intro k p
    simp only [pass1Body]
    split <;> omega
  have hsame : ∀ k p, p.j < len → pass1Body key len k p = pass1Body key' len k p := by
    intro k p hj
    simp only [pass1Body, h p.j hj]
  have hpass : forRange 0 (max N len) (pass1Body key len) { vec := base, i := 1, j := 0 } =
      forRange 0 (max N len) (pass1Body key' len) { vec := base, i := 1, j := 0 } :=
    forCount_congr (fun p => p.j < len) hlen (fun k p _ => hstay k p) hsame
  rw [seedArrayVec, seedArrayVec, hpass]

/-- Settles O42: the recurrence of R59 after SEEDS, the last write of R60 after SEEDA. -/
theorem seededTwistInputNotZero : Obligations.SeededTwistInputNotZero := by
  intro i s t h
  constructor
  · rintro ⟨seed, rfl⟩
    cases h
    exact (seedVec_seeded seed s.stateVec).exists_ne_zero
  · rintro rfl hkeys
    rw [exec_seeda_of_keys hkeys] at h
    cases h
    rw [respond_stateVec, seedArray_stateVec, seedArrayVec_zero]
    decide

/-! ## The words the twist leaves (R66, R67) -/

/-- The word of R66 is `T` of R67: bit 0 of the joined word is bit 0 of the next one. -/
theorem twistWord_eq_segmentWord (a b c : Word) : twistWord a b c = segmentWord a b c := by
  have hbit : ((a &&& upperMask) ||| (b &&& lowerMask)).getLsbD 0 = b.getLsbD 0 := by
    simp [upperMask, lowerMask]
  simp only [twistWord, hbit]
  rfl

/-- The in-place pass before index `n`: the words from `n` on are still those of `a`, and each word below has been made
from the words it reads, which are new where the index has passed them (R67, R69). -/
def TwistedBelow (a : StateVec) (n : Nat) (b : StateVec) : Prop :=
  (∀ j, n ≤ j → stateRead b j = stateRead a j) ∧
  ∀ kk, kk < n → stateRead b kk = segmentWord (stateRead a kk)
    (if kk < 623 then stateRead a (kk + 1) else stateRead b 0)
    (if kk < 227 then stateRead a (kk + 397) else stateRead b (kk - 227))

/-- The word an iteration stores, by what of the vector is still old. -/
theorem stateRead_twistBody_same {a b : StateVec} {n : Nat} (hn : n < 624)
    (hold : ∀ j, n ≤ j → stateRead b j = stateRead a j) :
    stateRead (twistBody n b) n = segmentWord (stateRead a n)
      (if n < 623 then stateRead a (n + 1) else stateRead b 0)
      (if n < 227 then stateRead a (n + 397) else stateRead b (n - 227)) := by
  have hnext : stateRead b ((n + 1) % 624) = if n < 623 then stateRead a (n + 1) else stateRead b 0 := by
    split
    next h => rw [Nat.mod_eq_of_lt (by omega), hold _ (by omega)]
    next h => rw [show (n + 1) % 624 = 0 by omega]
  have hfar : stateRead b ((n + 397) % 624) = if n < 227 then stateRead a (n + 397) else stateRead b (n - 227) := by
    split
    next h => rw [Nat.mod_eq_of_lt (by omega), hold _ (by omega)]
    next h => rw [show (n + 397) % 624 = n - 227 by omega]
  rw [twistBody, stateRead_write_same _ _ _ hn, twistWord_eq_segmentWord, N_eq, M_eq, hnext, hfar,
    hold n (Nat.le_refl n)]

theorem twistBody_twistedBelow {a b : StateVec} {n : Nat} (hn : n < 624) (h : TwistedBelow a n b) :
    TwistedBelow a (n + 1) (twistBody n b) := by
  obtain ⟨hold, hnew⟩ := h
  have hkeep : ∀ j, j ≠ n → stateRead (twistBody n b) j = stateRead b j := fun j hj =>
    stateRead_write_ne _ _ (Ne.symm hj)
  refine ⟨fun j hj => ?_, fun kk hkk => ?_⟩
  · rw [hkeep j (by omega), hold j (by omega)]
  · have hzero : ¬ kk < 623 → stateRead (twistBody n b) 0 = stateRead b 0 := fun _ => hkeep 0 (by omega)
    have hback : ¬ kk < 227 → stateRead (twistBody n b) (kk - 227) = stateRead b (kk - 227) := fun _ =>
      hkeep _ (by omega)
    rw [ite_congr rfl (fun _ => rfl) hzero, ite_congr rfl (fun _ => rfl) hback]
    obtain hlt | rfl := Nat.lt_succ_iff_lt_or_eq.1 hkk
    · rw [hkeep kk (by omega), hnew kk hlt]
    · exact stateRead_twistBody_same hn hold

/-- The in-place twist meets the three segments of R67. -/
theorem twistVec_twistOf (v : StateVec) : TwistOf v (twistVec v) := by
  have hall : TwistedBelow v 624 (twistVec v) := by
    rw [twistVec]
    exact forRange_induct (TwistedBelow v) (by decide) ⟨fun _ _ => rfl, fun _ h => absurd h (Nat.not_lt_zero _)⟩
      fun _ _ _ hn h => twistBody_twistedBelow hn h
  obtain ⟨-, hnew⟩ := hall
  refine ⟨fun kk hkk => ?_, fun kk hlo hhi => ?_, ?_⟩
  · rw [hnew kk (by omega), if_pos (by omega), if_pos hkk]
  · rw [hnew kk (by omega), if_pos hhi, if_neg (by omega)]
  · rw [hnew 623 (by decide), if_neg (by decide), if_neg (by decide)]

/-! ## What cannot be observed stays so (R16, R24)

CURSOR after a pass is equated by its lemma and never by rfl, with which the kernel would run the pass on both vectors. -/

theorem State.ObsEq.setInputs {s t : State} (h : s.ObsEq t) (l : List PortIn) : (s.setInputs l).ObsEq (t.setInputs l) :=
  { h with inputs := rfl }

theorem State.ObsEq.setOwner {s t : State} (h : s.ObsEq t) (host : Nat) : (s.setOwner host).ObsEq (t.setOwner host) :=
  { h with owner := rfl }

theorem State.ObsEq.respond {s t : State} (h : s.ObsEq t) (code : RspCode) {data data' : Word} (hdata : data = data') :
    (respond code data s).ObsEq (respond code data' t) :=
  { h with rsp := by rw [respond_rsp, respond_rsp, hdata] }

theorem State.ObsEq.deliver {s t : State} (h : s.ObsEq t) (r : Token) : (deliver r s).ObsEq (deliver r t) :=
  { h with
    rsp := rfl
    cmdIdx := by simp [h.cmdIdx]
    delivered := by simp [h.delivered, h.owner] }

/-- After a reset nothing is left to observe but the host's side. -/
theorem State.ObsEq.applyReset {s t : State} (h : s.ObsEq t) : (applyReset s).ObsEq (applyReset t) :=
  { h with
    cursor := by simp
    keyLen := by simp
    rsp := by simp
    keys := fun _ hj => absurd hj (Nat.not_lt_zero _)
    words := fun hc => absurd rfl hc }

theorem State.ObsEq.clearKeys {s t : State} (h : s.ObsEq t) : (s.setKeyLen 0#16).ObsEq (t.setKeyLen 0#16) :=
  { h with
    keyLen := rfl
    keys := fun _ hj => absurd hj (Nat.not_lt_zero _) }

theorem State.ObsEq.appendKey {s t : State} (h : s.ObsEq t) (key : Word) :
    (appendKey key s).ObsEq (appendKey key t) :=
  { h with
    keyLen := congrArg (· + 1#16) h.keyLen
    keys := fun j hj => by
      have hle : (s.keyLen + 1#16).toNat ≤ s.keyLen.toNat + 1 := by
        rw [BitVec.toNat_add]
        exact Nat.mod_le _ _
      have hj : j < (s.keyLen + 1#16).toNat := hj
      rw [keyRead_appendKey, keyRead_appendKey, ← h.keyLen]
      split
      next => rfl
      next hne => exact h.keys j (by omega) }

theorem State.ObsEq.seedScalar {s t : State} (h : s.ObsEq t) (seed : Word) :
    (seedScalar seed s).ObsEq (seedScalar seed t) :=
  { h with
    cursor := by simp
    words := fun _ => by rw [seedScalar_stateVec, seedScalar_stateVec, seedVec_forgets _ s.stateVec t.stateVec] }

theorem State.ObsEq.seedArray {s t : State} (h : s.ObsEq t) (hkeys : s.keyLen ≠ 0#16) :
    (seedArray s.keyLen.toNat s).ObsEq (seedArray t.keyLen.toNat t) :=
  { h with
    cursor := by simp
    words := fun _ => by
      have hpos : 0 < s.keyLen.toNat := Nat.pos_of_ne_zero fun h0 => hkeys (BitVec.eq_of_toNat_eq h0)
      rw [seedArray_stateVec, seedArray_stateVec, seedVec_forgets _ s.stateVec t.stateVec, ← h.keyLen]
      exact seedArrayVec_congr _ hpos h.keys }

/-- A twist at the sentinel forgets STATE before it reads it; elsewhere STATE is observed and so alike. -/
theorem State.ObsEq.twist {s t : State} (h : s.ObsEq t) : (twist s).ObsEq (twist t) where
  cursor := by simp
  keyLen := by simp [h.keyLen]
  rsp := by simp [h.rsp]
  owner := by simp [h.owner]
  inputs := by simp [h.inputs]
  cmdIdx := by simp [h.cmdIdx]
  delivered := by simp [h.delivered]
  keys := fun j hj => by
    simp only [keyRead, twist_keyBuf, twist_resets]
    exact h.keys j (by simpa using hj)
  words := fun _ => by
    rw [twist_stateVec, twist_stateVec, ← h.cursor]
    split
    next => rw [seedVec_forgets _ s.stateVec t.stateVec]
    next hc => rw [h.words hc]

theorem State.ObsEq.lazyTwist {s t : State} (h : s.ObsEq t) : (lazyTwist s).ObsEq (lazyTwist t) := by
  by_cases hc : s.cursor.toNat < 624
  · rw [lazyTwist_of_lt hc, lazyTwist_of_lt (h.cursor ▸ hc)]
    exact h
  · have hc := Nat.le_of_not_lt hc
    rw [lazyTwist_of_ge hc, lazyTwist_of_ge (h.cursor ▸ hc)]
    exact h.twist

/-- A draw reads below 624, where STATE is observed. -/
theorem State.ObsEq.draw {s t : State} (h : s.ObsEq t) : (draw s).1 = (draw t).1 ∧ (draw s).2.ObsEq (draw t).2 := by
  have hb := h.lazyTwist
  have hv : (Machine.lazyTwist s).stateVec = (Machine.lazyTwist t).stateVec := by
    refine hb.words fun hc => ?_
    have hlt := lazyTwist_cursor_lt s
    rw [hc] at hlt
    exact absurd hlt (by decide)
  constructor
  · simp only [Machine.draw, hv, hb.cursor]
  · exact { hb with
      cursor := congrArg (· + 1#10) hb.cursor
      words := fun _ => hv }

/-- Both results are a next state, and the two cannot be told apart. -/
def AlikeNext (a b : Result) : Prop := ∃ s t, a = .next s ∧ b = .next t ∧ s.ObsEq t

theorem exec_alike (i : Instr) {s t : State} (h : s.ObsEq t) : AlikeNext (exec i s) (exec i t) := by
  cases i with
  | seeds seed => exact ⟨_, _, rfl, rfl, (h.seedScalar seed).respond _ rfl⟩
  | kclr => exact ⟨_, _, rfl, rfl, h.clearKeys.respond _ rfl⟩
  | kpush key =>
    by_cases hfull : s.keyLen.toNat = Config.keyMax
    · exact ⟨_, _, exec_kpush_of_full hfull, exec_kpush_of_full (h.keyLen ▸ hfull), h.respond _ rfl⟩
    · exact ⟨_, _, exec_kpush_of_room hfull, exec_kpush_of_room (h.keyLen ▸ hfull),
        (h.appendKey key).respond _ rfl⟩
  | seeda =>
    by_cases hempty : s.keyLen = 0#16
    · exact ⟨_, _, exec_seeda_of_empty hempty, exec_seeda_of_empty (h.keyLen ▸ hempty), h.respond _ rfl⟩
    · exact ⟨_, _, exec_seeda_of_keys hempty, exec_seeda_of_keys (h.keyLen ▸ hempty),
        (h.seedArray hempty).respond _ rfl⟩
  | draw =>
    obtain ⟨hw, hs⟩ := h.draw
    exact ⟨_, _, rfl, rfl, hs.respond _ hw⟩
  | draw31 =>
    obtain ⟨hw, hs⟩ := h.draw
    exact ⟨_, _, rfl, rfl, hs.respond _ (by rw [hw])⟩
  | rdstat => exact ⟨_, _, rfl, rfl, h.respond _ (by rw [h.cursor, h.keyLen])⟩

theorem runToken_alike (tok : Token) {s t : State} (h : s.ObsEq t) : AlikeNext (runToken tok s) (runToken tok t) := by
  unfold runToken
  cases decode tok with
  | command i => exact exec_alike i h
  | illegal why => exact ⟨_, _, rfl, rfl, h.respond _ rfl⟩

/-- The branches of an event depend on the event and on the pending response alone, and both are alike. -/
theorem portEvent_alike (e : PortIn) {s t : State} (h : s.ObsEq t) : AlikeNext (portEvent e s) (portEvent e t) := by
  unfold portEvent
  rw [h.rsp]
  cases e.rst with
  | true => exact ⟨_, _, rfl, rfl, h.applyReset⟩
  | false =>
    cases t.rsp with
    | some r =>
      cases e.rspReady with
      | true => exact ⟨_, _, rfl, rfl, h.deliver r⟩
      | false => exact ⟨_, _, rfl, rfl, h⟩
    | none =>
      cases e.cmd with
      | some offered => exact runToken_alike offered.2 (h.setOwner offered.1)
      | none => exact ⟨_, _, rfl, rfl, h⟩

theorem step_alike {s t : State} (h : s.ObsEq t) : AlikeNext (step s) (step t) := by
  unfold step nextEvent
  rw [h.inputs]
  cases t.inputs with
  | nil => exact ⟨_, _, rfl, rfl, h⟩
  | cons e rest => exact portEvent_alike e (h.setInputs rest)

/-- Settles O32: `step_alike`, the step of the first state being the one given. -/
theorem stepHidesUnobservable : Obligations.StepHidesUnobservable := by
  intro s t s' h hs
  obtain ⟨a, t', ha, ht, hobs⟩ := step_alike h
  rw [hs] at ha
  cases ha
  exact ⟨t', ht, hobs⟩

/-- A run of one step more is a step, then the run. -/
theorem run_succ_of_step {s t : State} (h : step s = .next t) (k : Nat) :
    Host.Core.run Sys2Proof.core (k + 1) s = Host.Core.run Sys2Proof.core k t := by
  have hstep : Sys2Proof.core.step s = .next t := h
  simp only [Host.Core.run, hstep]

/-- Settles O33: induction on the number of steps over `step_alike`. -/
theorem runsRevealOnlyObservable : Obligations.RunsRevealOnlyObservable := by
  intro k
  induction k with
  | zero => exact fun s t h => ⟨s, t, rfl, rfl, h, h.delivered⟩
  | succ k ih =>
    intro s t h
    obtain ⟨a, b, ha, hb, hab⟩ := step_alike h
    rw [run_succ_of_step ha, run_succ_of_step hb]
    exact ih a b hab

/-! ## A sequence of draws (R74) -/

section Draws

variable {f : Nat → State}

/-- The cursor along the draws: back at 1 after every 624. -/
theorem cursor_of_draws (hstart : 624 ≤ (f 0).cursor.toNat)
    (hnext : ∀ d, (f (d + 1)).cursor = (draw (f d)).2.cursor) (d : Nat) :
    (f (d + 1)).cursor.toNat = d % 624 + 1 := by
  induction d with
  | zero => rw [hnext, draw_cursor_toNat, if_neg (by omega)]
  | succ d ih =>
    rw [hnext, draw_cursor_toNat, ih]
    split <;> omega

/-- The draws that find CURSOR at 624 or above are the first and every 624th after it. -/
theorem exhausted_iff_of_draws (hstart : 624 ≤ (f 0).cursor.toNat)
    (hnext : ∀ d, (f (d + 1)).cursor = (draw (f d)).2.cursor) (d : Nat) :
    624 ≤ (f d).cursor.toNat ↔ (d + 1) % 624 = 1 := by
  cases d with
  | zero => exact ⟨fun _ => rfl, fun _ => hstart⟩
  | succ d => rw [cursor_of_draws hstart hnext]; omega

end Draws

/-- A draw that finds CURSOR at 624 or above twists STATE, or the scalar seeding with 5489 at the sentinel. -/
theorem draw_twists {s : State} (h : 624 ≤ s.cursor.toNat) : ∃ b : StateVec,
    (if s.cursor = 625#10 then ScalarSeeded 5489#32 b else b = s.stateVec) ∧ TwistOf b (draw s).2.stateVec := by
  rw [draw_stateVec, lazyTwist_of_ge h, twist_stateVec]
  refine ⟨_, ?_, twistVec_twistOf _⟩
  split
  next => exact seedVec_seeded defaultSeed s.stateVec
  next => rfl

/-- Settles O48: the cursor along the draws by `cursor_of_draws`; each draw twists or leaves STATE by the cursor it
finds. -/
theorem twistOncePer624Draws : Obligations.TwistOncePer624Draws := by
  intro f hstart hdraws d
  have hnext : ∀ d, (f (d + 1)).stateVec = (draw (f d)).2.stateVec ∧ (f (d + 1)).cursor = (draw (f d)).2.cursor := by
    intro d
    obtain ⟨t, he, hv, hc⟩ := hdraws d
    obtain ⟨htv, htc⟩ := eq_draw_of_exec he
    exact ⟨hv.trans htv, hc.trans htc⟩
  have h0 : 624 ≤ (f 0).cursor.toNat := by
    obtain h | h := hstart <;> rw [h] <;> decide
  have hiff := exhausted_iff_of_draws h0 (fun d => (hnext d).2) d
  refine ⟨hiff, fun h1 => ?_, fun htw => ?_, fun hno => ?_⟩
  · have hc := cursor_of_draws h0 (fun d => (hnext d).2) (d - 1)
    rwa [Nat.sub_add_cancel h1] at hc
  · rw [(hnext d).1]
    exact draw_twists (hiff.2 htw)
  · rw [(hnext d).1, draw_stateVec, lazyTwist_of_lt (by omega)]

end Sys2Proof.Machine
end

section
/-!
PROOFS of 20_memory.md: the byte form of a token or response, an event at the port by the branch it takes, and a seeding
that meets the words it would leave. From these the statements on stored words, on two events and on idempotence.
-/

namespace Sys2Proof.Machine

/-! ## The byte form of a word (R29, R47) -/

/-- The eight bytes in the order of R29. -/
theorem wordBytes_eq_ofFn (t : Token) : wordBytes t = List.ofFn fun k : Fin 8 => t.extractLsb' (8 * k.val) 8 := rfl

/-- The eight bytes put together again are the word: neighbouring slices of a word join into one. -/
theorem wordOfBytes_wordBytes (t : Token) (rest : List Byte) : wordOfBytes (wordBytes t ++ rest) = some (t, rest) := by
  have hjoin : t.extractLsb' 56 8 ++ t.extractLsb' 48 8 ++ t.extractLsb' 40 8 ++ t.extractLsb' 32 8 ++
      t.extractLsb' 24 8 ++ t.extractLsb' 16 8 ++ t.extractLsb' 8 8 ++ t.extractLsb' 0 8 = t := by
    simp only [BitVec.extractLsb'_append_extractLsb'_eq_extractLsb']
    exact BitVec.extractLsb'_eq_self
  exact congrArg (fun w => some (w, rest)) hjoin

theorem decodeBytes_wordBytes_of_command {t : Token} {i : Instr} (h : decode t = .command i) (rest : List Byte) :
    decodeBytes (wordBytes t ++ rest) = .command i rest := by
  simp only [decodeBytes, wordOfBytes_wordBytes, h]

theorem decodeBytes_wordBytes_of_illegal {t : Token} {why : IllegalToken} (h : decode t = .illegal why)
    (rest : List Byte) : decodeBytes (wordBytes t ++ rest) = .illegal why rest := by
  simp only [decodeBytes, wordOfBytes_wordBytes, h]

/-- Settles O6: the bytes by `wordBytes_eq_ofFn`, reading back by `wordOfBytes_wordBytes`, and the decoded command by
what the token itself decodes to. -/
theorem wordsStoredLittleEndian : Obligations.WordsStoredLittleEndian := by
  intro t rest
  refine ⟨rfl, fun k hk => ?_, wordOfBytes_wordBytes t rest, fun i => ⟨fun h => ?_, fun h => ?_⟩⟩
  · rw [wordBytes_eq_ofFn, List.getElem?_ofFn, dif_pos hk]
  · cases hd : decode t with
    | command j =>
      rw [decodeBytes_wordBytes_of_command hd] at h
      cases h
      rfl
    | illegal why =>
      rw [decodeBytes_wordBytes_of_illegal hd] at h
      cases h
  · exact decodeBytes_wordBytes_of_command h rest

/-! ## An event at the port, by the branch it takes (R108, R109) -/

theorem step_of_inputs {s : State} {e : PortIn} {rest : List PortIn} (h : s.inputs = e :: rest) :
    step s = portEvent e (s.setInputs rest) := by
  simp only [step, nextEvent, h]

theorem portEvent_of_transfer {e : PortIn} {s : State} {r : Token} (hrst : e.rst = false) (hr : s.rsp = some r)
    (hready : e.rspReady = true) : portEvent e s = .next (deliver r s) := by
  simp [portEvent, hrst, hr, hready]

theorem portEvent_of_token {e : PortIn} {s : State} {host : Nat} {t : Token} (hrst : e.rst = false)
    (hr : s.rsp = none) (hcmd : e.cmd = some (host, t)) : portEvent e s = runToken t (s.setOwner host) := by
  simp [portEvent, hrst, hr, hcmd]

theorem runToken_of_command {t : Token} {i : Instr} (h : decode t = .command i) (s : State) :
    runToken t s = exec i s := by
  simp only [runToken, h]

/-- Settles O15: the event is the acceptance of a token, and the token's command runs. -/
theorem stepRunsDecodedCommand : Obligations.StepRunsDecodedCommand := by
  intro s e rest host t i hin hrst hr hcmd hdec
  calc step s
      = portEvent e (s.setInputs rest) := step_of_inputs hin
    _ = runToken t ((s.setInputs rest).setOwner host) := portEvent_of_token hrst hr hcmd
    _ = exec i ((s.setInputs rest).setOwner host) := runToken_of_command hdec _

/-- Settles O17: the event is a transfer, and `deliver` writes the fields claimed. -/
theorem stepTransfersResponse : Obligations.StepTransfersResponse := by
  intro s e rest r hin hrst hr hready
  calc step s
      = portEvent e (s.setInputs rest) := step_of_inputs hin
    _ = .next (deliver r (s.setInputs rest)) := portEvent_of_transfer hrst hr hready

/-! ## Seeding a second time (R32)

A seeding whose words and CURSOR are already there changes nothing; after the first one they are. -/

theorem respond_respond (code code' : RspCode) (data data' : Word) (s : State) :
    respond code data (respond code' data' s) = respond code data s := rfl

theorem exec_seeds (seed : Word) (s : State) :
    exec (.seeds seed) s = .next (respond .ok 0#32 (seedScalar seed s)) := rfl

theorem seedScalar_eq_self {seed : Word} {s : State} (hv : seedVec seed s.stateVec = s.stateVec)
    (hc : s.cursor = 624#10) : seedScalar seed s = s := by
  rw [seedScalar, hv, ← hc]
  rfl

theorem seedArray_eq_self {len : Nat} {s : State}
    (hv : seedArrayVec (keyRead s) len (seedVec arrayBaseSeed s.stateVec) = s.stateVec) (hc : s.cursor = 624#10) :
    seedArray len s = s :=
  calc seedArray len s
      = (s.setStateVec (seedArrayVec (keyRead s) len (seedVec arrayBaseSeed s.stateVec))).setCursor 624#10 := rfl
    _ = (s.setStateVec s.stateVec).setCursor s.cursor := by rw [hv, hc]
    _ = s := rfl

theorem seedScalar_respond_seedScalar (seed : Word) (code : RspCode) (data : Word) (s : State) :
    seedScalar seed (respond code data (seedScalar seed s)) = respond code data (seedScalar seed s) :=
  seedScalar_eq_self (seedVec_forgets seed _ _) rfl

/-- Seeding leaves the keys, and forgets the STATE it finds. -/
theorem seedArray_respond_seedArray (len : Nat) (code : RspCode) (data : Word) (s : State) :
    seedArray len (respond code data (seedArray len s)) = respond code data (seedArray len s) := by
  refine seedArray_eq_self ?_ rfl
  have hkeys : keyRead (respond code data (seedArray len s)) = keyRead s := rfl
  rw [hkeys, respond_stateVec, seedArray_stateVec, seedVec_forgets arrayBaseSeed _ s.stateVec]

/-- Settles O41: each command finds what it would write, its response included; a SEEDA without keys answers the same
error again. -/
theorem idempotentCommands : Obligations.IdempotentCommands := by
  rintro i s t (rfl | rfl | rfl | ⟨seed, rfl⟩) h
  · by_cases hempty : s.keyLen = 0#16
    · rw [exec_seeda_of_empty hempty] at h
      cases h
      exact exec_seeda_of_empty hempty
    · rw [exec_seeda_of_keys hempty] at h
      cases h
      rw [exec_seeda_of_keys (by simpa using hempty), respond_keyLen, seedArray_keyLen, seedArray_respond_seedArray,
        respond_respond]
  · cases h
    rfl
  · cases h
    rfl
  · cases h
    rw [exec_seeds, seedScalar_respond_seedScalar, respond_respond]

end Sys2Proof.Machine
end

section
/-!
PROOFS of 30_encoding.md: a token as its three fields, the opcode table, the answer of an event that accepts an illegal
token, what the assembler makes of command lines, and the host's constructors. From these the statements on tokens,
responses, pseudo-instructions and construction.
-/

namespace Sys2Proof.Machine

/-! ## The fields of a token (R42) -/

theorem opcField_append (arg : Word) (opc : BitVec 8) : opcField (arg ++ 0#24 ++ opc) = opc :=
  (Laws.EncodeLegal.fields_of_append arg opc).2

theorem rsvField_append (arg : Word) (opc : BitVec 8) : rsvField (arg ++ 0#24 ++ opc) = 0#24 :=
  (Laws.EncodeLegal.fields_of_append arg opc).1

theorem argField_append (arg : Word) (opc : BitVec 8) : argField (arg ++ 0#24 ++ opc) = arg := by
  rw [argField, BitVec.append_assoc]
  exact BitVec.extractLsb'_append_eq_left

/-- Bits 31:0 of a token are RSV and OPC. -/
theorem rsvField_append_opcField (t : Token) : rsvField t ++ opcField t = t.extractLsb' 0 32 :=
  BitVec.extractLsb'_append_extractLsb'_eq_extractLsb' rfl

/-- A token is its ARG above its bits 31:0. -/
theorem argField_append_low (t : Token) : argField t ++ t.extractLsb' 0 32 = t :=
  (BitVec.extractLsb'_append_extractLsb'_eq_extractLsb' rfl).trans BitVec.extractLsb'_eq_self

/-- The mask of the opcode table keeps bits 31:0. -/
theorem and_mask_eq (t : Token) : t &&& 0x00000000FFFFFFFF#64 = 0#32 ++ t.extractLsb' 0 32 :=
  calc t &&& 0x00000000FFFFFFFF#64
      = (argField t ++ t.extractLsb' 0 32) &&& (0#32 ++ BitVec.allOnes 32) := by
        rw [argField_append_low]
        rfl
    _ = 0#32 ++ t.extractLsb' 0 32 := by rw [BitVec.and_append, BitVec.and_zero, BitVec.and_allOnes]

/-- Bits 31:0 are an opcode alone exactly when RSV is zero and OPC is that opcode. -/
theorem low_eq_iff (t : Token) (opc : BitVec 8) :
    t.extractLsb' 0 32 = 0#24 ++ opc ↔ rsvField t = 0#24 ∧ opcField t = opc := by
  rw [← rsvField_append_opcField]
  constructor
  · intro h
    have hrsv := congrArg (BitVec.extractLsb' 8 24) h
    have hopc := congrArg (BitVec.extractLsb' 0 8) h
    rw [BitVec.extractLsb'_append_eq_left, BitVec.extractLsb'_append_eq_left] at hrsv
    rw [BitVec.extractLsb'_append_eq_right, BitVec.extractLsb'_append_eq_right] at hopc
    exact ⟨hrsv, hopc⟩
  · rintro ⟨hrsv, hopc⟩
    rw [hrsv, hopc]

/-- A masked token is an opcode alone exactly when RSV is zero and OPC is that opcode (R45). -/
theorem and_mask_eq_iff (t : Token) (opc : BitVec 8) :
    t &&& 0x00000000FFFFFFFF#64 = 0#32 ++ (0#24 ++ opc) ↔ rsvField t = 0#24 ∧ opcField t = opc := by
  rw [and_mask_eq, BitVec.append_right_inj, low_eq_iff]

/-! ## The opcode table (R44, R45) -/

/-- Decoding a token put together from ARG and OPC reads the table (R45). -/
theorem decode_append (arg : Word) (opc : BitVec 8) : decode (arg ++ 0#24 ++ opc) = decodeOpcode opc arg := by
  rw [decode, rsvField_append, opcField_append, argField_append, if_neg (not_not_intro rfl)]

theorem decode_of_rsv_ne {t : Token} (h : rsvField t ≠ 0#24) : decode t = .illegal .reservedBits := if_pos h

theorem decode_of_rsv_eq {t : Token} (h : rsvField t = 0#24) : decode t = decodeOpcode (opcField t) (argField t) :=
  if_neg (not_not_intro h)

theorem decode_eq_command_iff (t : Token) (i : Instr) :
    decode t = .command i ↔ rsvField t = 0#24 ∧ decodeOpcode (opcField t) (argField t) = .command i := by
  by_cases h : rsvField t = 0#24
  · simp [decode_of_rsv_eq h, h]
  · simp [decode_of_rsv_ne h, h]

theorem decodeOpcode_opcodeOf (i : Instr) : decodeOpcode (opcodeOf i) (operandOf i) = .command i := by
  cases i <;> rfl

/-- The rows of the table: an opcode, and the command it selects. -/
theorem decodeOpcode_eq_command_iff (opc : BitVec 8) (arg : Word) (i : Instr) :
    decodeOpcode opc arg = .command i ↔
      (opc = 0x01#8 ∧ i = .seeds arg) ∨ (opc = 0x02#8 ∧ i = .kclr) ∨ (opc = 0x03#8 ∧ i = .kpush arg) ∨
      (opc = 0x04#8 ∧ i = .seeda) ∨ (opc = 0x05#8 ∧ i = .draw) ∨ (opc = 0x06#8 ∧ i = .draw31) ∨
      (opc = 0x07#8 ∧ i = .rdstat) := by
  constructor
  · intro h
    unfold decodeOpcode at h
    split at h
    case h_8 => cases h
    all_goals
      cases h
      simp [BitVec.toNat_eq, *]
  · rintro (⟨rfl, rfl⟩ | ⟨rfl, rfl⟩ | ⟨rfl, rfl⟩ | ⟨rfl, rfl⟩ | ⟨rfl, rfl⟩ | ⟨rfl, rfl⟩ | ⟨rfl, rfl⟩) <;> rfl

/-- The table has a row for opcodes 1 to 7 and no other (R44). -/
theorem exists_decodeOpcode_command_iff (opc : BitVec 8) (arg : Word) :
    (∃ i, decodeOpcode opc arg = .command i) ↔ 1 ≤ opc.toNat ∧ opc.toNat ≤ 7 := by
  constructor
  · rintro ⟨i, h⟩
    obtain ⟨rfl, -⟩ | ⟨rfl, -⟩ | ⟨rfl, -⟩ | ⟨rfl, -⟩ | ⟨rfl, -⟩ | ⟨rfl, -⟩ | ⟨rfl, -⟩ :=
      (decodeOpcode_eq_command_iff _ _ _).1 h <;> decide
  · rintro ⟨h1, h7⟩
    have hval : opc.toNat = 1 ∨ opc.toNat = 2 ∨ opc.toNat = 3 ∨ opc.toNat = 4 ∨ opc.toNat = 5 ∨ opc.toNat = 6 ∨
        opc.toNat = 7 := by omega
    unfold decodeOpcode
    obtain h | h | h | h | h | h | h := hval <;> rw [h] <;> exact ⟨_, rfl⟩

/-- A token is a command exactly when RSV is zero and OPC is 1 to 7. -/
theorem exists_decode_command_iff (t : Token) :
    (∃ i, decode t = .command i) ↔ rsvField t = 0#24 ∧ 1 ≤ (opcField t).toNat ∧ (opcField t).toNat ≤ 7 := by
  simp only [decode_eq_command_iff, exists_and_left, exists_decodeOpcode_command_iff]

/-- Every token is a command or illegal, and not both (R45). -/
theorem exists_illegal_iff (d : Decoded) : (∃ why, d = .illegal why) ↔ ¬ ∃ i, d = .command i := by
  cases d <;> simp

/-- What a decoded command says of its token: the fields the encoder would write, ARG where it is an operand. -/
theorem fields_of_decode {t : Token} {i : Instr} (h : decode t = .command i) :
    rsvField t = 0#24 ∧ opcField t = opcodeOf i ∧ ((∃ w, i = .seeds w ∨ i = .kpush w) → argField t = operandOf i) := by
  obtain ⟨hrsv, hrow⟩ := (decode_eq_command_iff t i).1 h
  refine ⟨hrsv, ?_⟩
  obtain ⟨hopc, rfl⟩ | ⟨hopc, rfl⟩ | ⟨hopc, rfl⟩ | ⟨hopc, rfl⟩ | ⟨hopc, rfl⟩ | ⟨hopc, rfl⟩ | ⟨hopc, rfl⟩ :=
    (decodeOpcode_eq_command_iff _ _ _).1 hrow <;> exact ⟨hopc, by simp [operandOf]⟩

theorem decode_encode (i : Instr) : decode (encode i) = .command i :=
  (decode_append (operandOf i) (opcodeOf i)).trans (decodeOpcode_opcodeOf i)

/-- Settles O1: the decoder reads back the fields the encoder wrote, and the table selects the command of its own
opcode. -/
theorem decodeOfEncode : Obligations.DecodeOfEncode := fun i _ => decode_encode i

/-- Settles O2: bits 31:0 are RSV and OPC, which `fields_of_decode` gives; an operand is ARG itself. -/
theorem encodeOfDecode : Obligations.EncodeOfDecode := by
  intro t i h
  obtain ⟨hrsv, hopc, harg⟩ := fields_of_decode h
  have hlow : (encode i).extractLsb' 0 32 = t.extractLsb' 0 32 := by
    rw [← rsvField_append_opcField, ← rsvField_append_opcField, encode, rsvField_append, opcField_append, hrsv, hopc]
  refine ⟨hlow, fun hi => ?_⟩
  calc encode i
      = argField (encode i) ++ (encode i).extractLsb' 0 32 := (argField_append_low _).symm
    _ = argField t ++ t.extractLsb' 0 32 := by rw [hlow, encode, argField_append, harg hi]
    _ = t := argField_append_low t

/-- Settles O3: the rows of `decodeOpcode_eq_command_iff`, RSV = 0 and OPC read as one masked comparison. -/
theorem decodeFollowsOpcodeTable : Obligations.DecodeFollowsOpcodeTable := by
  intro t i
  rw [decode_eq_command_iff, decodeOpcode_eq_command_iff]
  simp only [and_or_left, ← and_assoc, ← and_mask_eq_iff]
  exact Iff.rfl

/-- Settles O4: a token is illegal when it is no command, and commands are the tokens with RSV 0 and OPC 1 to 7. -/
theorem illegalExactlyWhenReserved : Obligations.IllegalExactlyWhenReserved := by
  intro t
  refine ⟨?_, decode_of_rsv_ne, ?_⟩
  · have hzero : opcField t = 0x00#8 ↔ (opcField t).toNat = 0 := BitVec.toNat_eq
    have hopc : ¬ (1 ≤ (opcField t).toNat ∧ (opcField t).toNat ≤ 7) ↔
        opcField t = 0x00#8 ∨ 8 ≤ (opcField t).toNat := by
      rw [hzero]
      omega
    rw [exists_illegal_iff, exists_decode_command_iff, Decidable.not_and_iff_not_or_not, hopc]
    exact Iff.rfl
  · rw [exists_decode_command_iff]
    simp [tokenWellFormed, reservedBitsZero, opcodeAssigned, rsvField, opcField]

/-- Settles O5: `decode_append`, the table read at each assigned opcode. -/
theorem argIgnoredWithoutOperand : Obligations.ArgIgnoredWithoutOperand := fun arg =>
  ⟨decode_append arg 0x01#8, decode_append arg 0x02#8, decode_append arg 0x03#8, decode_append arg 0x04#8,
    decode_append arg 0x05#8, decode_append arg 0x06#8, decode_append arg 0x07#8⟩

/-- Settles O7: eleven fixed tokens and two byte forms, evaluated. -/
theorem representativeTokensDecode : Obligations.RepresentativeTokensDecode := by
  unfold Obligations.RepresentativeTokensDecode
  decide

/-- Settles O8: the three fields of `responseWord`, and the table of R89. -/
theorem responseWordFields : Obligations.ResponseWordFields :=
  ⟨fun code data => ⟨dataField_responseWord code data, responseWord_reserved code data,
    codeField_responseWord code data⟩, rfl, rfl, rfl, rfl⟩

/-! ## An illegal token at the port (R46) -/

theorem runToken_of_illegal {t : Token} {why : IllegalToken} (h : decode t = .illegal why) (s : State) :
    runToken t s = .next (raise .illegalCommand s) := by
  simp only [runToken, h]

/-- Settles O16: the event is the acceptance of a token, and `raise` writes the response alone. -/
theorem stepAnswersIllegalCommand : Obligations.StepAnswersIllegalCommand := by
  intro s e rest host t why hin hrst hr hcmd hdec
  calc step s
      = portEvent e (s.setInputs rest) := step_of_inputs hin
    _ = runToken t ((s.setInputs rest).setOwner host) := portEvent_of_token hrst hr hcmd
    _ = .next (raise .illegalCommand ((s.setInputs rest).setOwner host)) := runToken_of_illegal hdec _

/-! ## Command lines and pseudo-instructions (R49, R50) -/

/-- The tokens of commands are their encodings: neither the position nor the clock is read. -/
theorem tokens_map_command (clock : Nat → Nat) (n : Nat) (l : List Instr) :
    Assembler.tokens clock n (l.map .command) = l.map encode := by
  induction l generalizing n with
  | nil => rfl
  | cons i l ih => exact congrArg (encode i :: ·) (ih (n + 1))

theorem seedArr_eq_map (keys : List Word) :
    Assembler.seedArr keys = (Instr.kclr :: (keys.map Instr.kpush ++ [Instr.seeda])).map .command := by
  simp [Assembler.seedArr]

/-- Settles O58: SEEDARR is a list of commands, and each command's token is its encoding. -/
theorem seedArrExpansion : Obligations.SeedArrExpansion := by
  intro clock n keys
  rw [seedArr_eq_map, tokens_map_command, List.map_cons, List.map_append, List.map_map]
  rfl

theorem copies_eq_flatten (n : Nat) (l : List Assembler.Issue) :
    Assembler.copies n l = (List.replicate n l).flatten := by
  induction n with
  | zero => rfl
  | succ n ih => rw [Assembler.copies, ih, List.replicate_succ, List.flatten_cons]

/-- Command lines add their commands to the present level, in order. -/
theorem assembleLines_map_command (l : List Instr) (rest : List Assembler.AsmLine)
    (outer : List (Nat × List Assembler.Issue)) (acc : List Assembler.Issue) :
    Assembler.assembleLines (l.map .command ++ rest) outer acc =
      Assembler.assembleLines rest outer (acc ++ l.map .command) := by
  induction l generalizing acc with
  | nil => simp
  | cons i l ih =>
    rw [List.map_cons, List.cons_append, Assembler.assembleLines, ih, List.append_assoc]
    rfl

theorem assembleLines_repetition (body : List Instr) (n : Nat) (rest : List Assembler.AsmLine)
    (outer : List (Nat × List Assembler.Issue)) (acc : List Assembler.Issue) :
    Assembler.assembleLines (.rep n :: (body.map .command ++ .endRep :: rest)) outer acc =
      Assembler.assembleLines rest outer (acc ++ (List.replicate n (body.map .command)).flatten) := by
  rw [Assembler.assembleLines, assembleLines_map_command, Assembler.assembleLines, copies_eq_flatten, List.nil_append]

/-- Settles O59: the lines before, the repetition, the lines after, each adding to what is assembled so far. -/
theorem assembledRepetition : Obligations.AssembledRepetition := by
  intro before body after n
  rw [assembleLines_map_command, assembleLines_repetition, List.nil_append,
    ← List.append_nil (after.map Assembler.AsmLine.command), assembleLines_map_command, Assembler.assembleLines]

/-! ## The host's constructors (R85, R86, R87) -/

/-- The state in which the host has taken the OK response, with `data` as DATA, of a command that left `b`. -/
def taken (data : Word) (b : State) : State := deliver (responseWord .ok data) (respond .ok data b)

@[simp] theorem taken_keyLen (data : Word) (b : State) : (taken data b).keyLen = b.keyLen := rfl

@[simp] theorem taken_cmdIdx (data : Word) (b : State) : (taken data b).cmdIdx = b.cmdIdx + 1 := rfl

@[simp] theorem keyRead_taken (data : Word) (b : State) (j : Nat) : keyRead (taken data b) j = keyRead b j := rfl

/-- A checked call of a command that answers OK. -/
theorem callChecked_of_ok {i : Instr} {s b : State} {data : Word} (h : exec i s = .next (respond .ok data b)) :
    callChecked i s = .ok (taken data b) :=
  callChecked_ok (call_of_exec (decode_encode i) h rfl) (codeField_responseWord .ok data)

/-- Value reduction is the remainder modulo 2^32 (R85). -/
theorem toNat_reduceValue (v : Int) : ((reduceValue v).toNat : Int) = v % 4294967296 := by
  rw [reduceValue, BitVec.toNat_ofInt]
  omega

theorem reduceValue_add_mul (v k : Int) : reduceValue (v + 4294967296 * k) = reduceValue v := by
  have h := toNat_reduceValue (v + 4294967296 * k)
  rw [Int.add_mul_emod_self_left, ← toNat_reduceValue v] at h
  exact BitVec.eq_of_toNat_eq (Int.ofNat_inj.1 h)

/-- The clock's reading is reduced as any integer is (R86). -/
theorem reduceValue_natCast (n : Nat) : reduceValue n = u32 n := BitVec.ofInt_natCast 32 n

/-- Pushing keys depends on the reduced keys alone, failures included. -/
theorem pushKeys_map_congr {α : Type} {f g : α → Int} (h : ∀ a, reduceValue (f a) = reduceValue (g a)) (l : List α)
    (s : State) : pushKeys (l.map f) s = pushKeys (l.map g) s := by
  induction l generalizing s with
  | nil => rfl
  | cons a l ih => simp only [List.map_cons, pushKeys, h a, ih]

/-- Settles O60: every constructor reads its integers through `reduceValue`; a scalar seed is word 0 (R59). -/
theorem seedsAnyInteger : Obligations.SeedsAnyInteger := by
  refine ⟨fun v k s => ?_, toNat_reduceValue, fun v s => ?_, fun keys s => ?_, fun timeMs s => ?_⟩
  · rw [constructScalar, constructScalar, reduceValue_add_mul]
  · exact ⟨_, callChecked_of_ok (exec_seeds (reduceValue v) s), rfl, (seedVec_seeded (reduceValue v) s.stateVec).1⟩
  · simp only [constructKeys, pushKeys_map_congr fun p : Int × Int => reduceValue_add_mul p.1 p.2]
  · rw [constructFromTime, constructScalar, reduceValue_natCast]

/-- Keys that fit are all accepted, each at the index after the one before, above the keys already there. -/
theorem pushKeys_of_room (keys : List Int) {s : State} (h : s.keyLen.toNat + keys.length ≤ Config.keyMax) :
    ∃ t, pushKeys keys s = .ok t ∧ t.keyLen.toNat = s.keyLen.toNat + keys.length ∧
      t.cmdIdx = s.cmdIdx + keys.length ∧ (∀ j, j < s.keyLen.toNat → keyRead t j = keyRead s j) ∧
      ∀ j v, keys[j]? = some v → keyRead t (s.keyLen.toNat + j) = reduceValue v := by
  induction keys generalizing s with
  | nil => exact ⟨s, rfl, rfl, rfl, fun _ _ => rfl, fun _ _ hv => nomatch hv⟩
  | cons key keys ih =>
    rw [List.length_cons] at h
    have hpush := callChecked_of_ok (exec_kpush_of_room (key := reduceValue key) (s := s) (by omega))
    have hlen : (taken 0#32 (appendKey (reduceValue key) s)).keyLen.toNat = s.keyLen.toNat + 1 :=
      keyLen_succ_toNat (by omega)
    obtain ⟨t, ht, htlen, htidx, hbelow, hkeys⟩ := ih (s := taken 0#32 (appendKey (reduceValue key) s)) (by omega)
    rw [hlen] at htlen hbelow hkeys
    have hread : ∀ j, j < s.keyLen.toNat + 1 →
        keyRead t j = if j = s.keyLen.toNat then reduceValue key else keyRead s j := fun j hj => by
      rw [hbelow j hj, keyRead_taken, keyRead_appendKey]
    refine ⟨t, (pushKeys_ok hpush keys).trans ht, ?_, ?_, fun j hj => ?_, fun j v hv => ?_⟩
    · rw [htlen, List.length_cons, Nat.add_right_comm, Nat.add_assoc]
    · rw [htidx, List.length_cons, taken_cmdIdx, Nat.add_right_comm]
      rfl
    · rw [hread j (by omega), if_neg (by omega)]
    · cases j with
      | zero =>
        cases hv
        exact (hread _ (by omega)).trans (if_pos rfl)
      | succ j =>
        rw [← hkeys j v hv, Nat.add_right_comm, Nat.add_assoc]

/-- Settles O56: KCLR leaves KEYLEN 0, `pushKeys_of_room` appends the keys, and SEEDA, finding some, leaves them and
CURSOR 624. -/
theorem keySequenceConstructor : Obligations.KeySequenceConstructor := by
  intro keys s hpos hmax
  have hclr : callChecked .kclr s = .ok (taken 0#32 (s.setKeyLen 0#16)) := callChecked_of_ok rfl
  obtain ⟨u, hu, hulen, huidx, -, hkeys⟩ := pushKeys_of_room keys
    (s := taken 0#32 (s.setKeyLen 0#16)) (by simpa using hmax)
  simp only [taken_keyLen, State.setKeyLen_keyLen, BitVec.toNat_zero, Nat.zero_add] at hulen hkeys
  have hne : u.keyLen ≠ 0#16 := fun h => by
    rw [h, BitVec.toNat_zero] at hulen
    omega
  have hseeda := callChecked_of_ok (exec_seeda_of_keys hne)
  refine ⟨taken 0#32 (seedArray u.keyLen.toNat u), ?_, hulen, rfl, fun j v hv => ?_, ?_⟩
  · simp only [constructKeys, hclr, hu, hseeda]
  · rw [← toNat_reduceValue v, ← hkeys j v hv]
    rfl
  · rw [taken_cmdIdx, seedArray_cmdIdx, huidx, taken_cmdIdx, State.setKeyLen_cmdIdx]
    omega

end Sys2Proof.Machine
end

section
/-!
PROOFS of 40_datapath.md: the bits fold30 changes, the mixing passes of SeedArray iteration by iteration with their
indices in closed form, and from these the statements on fold30, mix, SEEDS and SEEDA.
-/

namespace Sys2Proof.Machine

/-! ## fold30 and mix (R56, R58) -/

/-- Only the low two bits of the word that fold30 XORs in are not zero: they are the top two of `x` (R56). -/
theorem shiftRight_30_eq (x : Word) : x >>> 30 = 0#30 ++ x.extractLsb' 30 2 :=
  BitVec.ushiftRight_eq_extractLsb'_of_lt (by decide)

/-- Settles O9: the word XORed in is bits 31:30 of `x` below 30 zero bits. -/
theorem fold30XorsTopBitsIntoLow : Obligations.Fold30XorsTopBitsIntoLow := by
  refine ⟨fun x => ⟨rfl, ?_, ?_⟩, by decide, by decide, by decide⟩
  · rw [fold30, shiftRight_30_eq, BitVec.extractLsb'_xor, BitVec.extractLsb'_append_eq_left, BitVec.xor_zero]
  · rw [fold30, shiftRight_30_eq, BitVec.extractLsb'_xor, BitVec.extractLsb'_append_eq_right]

/-- Settles O10: the halves add up to `s` (`mix_eq_mul`); the vectors are evaluated. -/
theorem mixIsOneMultiply : Obligations.MixIsOneMultiply :=
  ⟨mix_eq_mul, by decide, by decide, by decide, by decide, by decide, by decide, by decide, by decide⟩

/-! ## SEEDS (R62) -/

/-- Settles O34: the words are those of `seedVec_seeded`. -/
theorem seedsResult : Obligations.SeedsResult := fun seed s =>
  ⟨seedVec seed s.stateVec, seedVec_seeded seed s.stateVec, exec_seeds seed s⟩

/-! ## The mixing passes iteration by iteration (R60, R61) -/

/-- The word `fold30` and `mix` make is the product a mixing pass forms. -/
theorem mix_fold30 (v : StateVec) (i : Nat) (k : Word) :
    mix (fold30 (stateRead v (i - 1))) k = mixProduct v i k := mix_eq_mul _ k

/-- From the index of iteration `n` on to that of iteration `n + 1`: the index runs through 1..623 (R61). -/
theorem advanceIndex_snd (v : StateVec) (n : Nat) : (advanceIndex v (1 + n % 623)).2 = 1 + (n + 1) % 623 := by
  rw [advanceIndex, N_eq]
  split
  next h => exact (show 1 = 1 + (n + 1) % 623 by omega)
  next h => exact (show 1 + n % 623 + 1 = 1 + (n + 1) % 623 by omega)

/-- Storing a word at an index of 1..623 and advancing is one iteration of a mixing pass (R60). -/
theorem mixStep_advanceIndex (v : StateVec) {i : Nat} (w : Word) (h1 : 1 ≤ i) (hi : i < 624) :
    MixStep i w v (advanceIndex (stateWrite v i w) i).1 := by
  have hsame : stateRead (stateWrite v i w) i = w := stateRead_write_same v i w hi
  rw [advanceIndex, N_eq]
  split
  next hlast =>
    obtain rfl : i = 623 := by omega
    refine ⟨(stateRead_write_ne _ _ (by decide)).trans hsame, fun x hx _ hne => ?_, ?_⟩
    · exact (stateRead_write_ne _ _ (by omega)).trans (stateRead_write_ne _ _ hne.symm)
    · exact (stateRead_write_same _ _ _ (by decide)).trans hsame
  next hlast =>
    refine ⟨hsame, fun x _ _ hne => stateRead_write_ne _ _ hne.symm, ?_⟩
    rw [if_neg (by omega)]
    exact stateRead_write_ne _ _ (by omega)

/-! Before iteration `n`, counted on from pass 1 into pass 2, the index is 1 + n mod 623 (R61, D12). -/

theorem pass1Body_i (key : Nat → Word) (len k : Nat) {n : Nat} {p : MixPass} (h : p.i = 1 + n % 623) :
    (pass1Body key len k p).i = 1 + (n + 1) % 623 := by
  simp only [pass1Body, h, advanceIndex_snd]

theorem pass2Body_i (k : Nat) {n : Nat} {p : MixPass} (h : p.i = 1 + n % 623) :
    (pass2Body k p).i = 1 + (n + 1) % 623 := by
  simp only [pass2Body, h, advanceIndex_snd]

theorem pass1Body_j (key : Nat → Word) (len k : Nat) (p : MixPass) :
    (pass1Body key len k p).j = if len ≤ p.j + 1 then 0 else p.j + 1 := rfl

/-- What one iteration of pass 1 stores (R60). -/
theorem pass1Body_mixStep (key : Nat → Word) (len k : Nat) {n : Nat} {p : MixPass} (h : p.i = 1 + n % 623) :
    MixStep (1 + n % 623)
      ((stateRead p.vec (1 + n % 623) ^^^ mixProduct p.vec (1 + n % 623) kPass1) + key p.j + u32 p.j)
      p.vec (pass1Body key len k p).vec := by
  rw [← h, ← mix_fold30]
  exact mixStep_advanceIndex p.vec _ (by omega) (by omega)

/-- What one iteration of pass 2 stores (R60). -/
theorem pass2Body_mixStep (k : Nat) {n : Nat} {p : MixPass} (h : p.i = 1 + n % 623) :
    MixStep (1 + n % 623)
      ((stateRead p.vec (1 + n % 623) ^^^ mixProduct p.vec (1 + n % 623) kPass2) - u32 (1 + n % 623))
      p.vec (pass2Body k p).vec := by
  rw [← h, ← mix_fold30]
  exact mixStep_advanceIndex p.vec _ (by omega) (by omega)

/-- What pass 1 carries after `k` iterations. -/
def pass1At (key : Nat → Word) (len : Nat) (base : StateVec) (k : Nat) : MixPass :=
  forCount k 0 (pass1Body key len) { vec := base, i := 1, j := 0 }

/-- What pass 2 carries after `k` iterations, from the whole of pass 1 on (D12). -/
def pass2At (key : Nat → Word) (len : Nat) (base : StateVec) (k : Nat) : MixPass :=
  forCount k 0 pass2Body (pass1At key len base (max 624 len))

/-- SeedArray is the two passes, 623 iterations the second, and the last write to word 0 (R60). -/
theorem seedArrayVec_eq (key : Nat → Word) (len : Nat) (base : StateVec) :
    seedArrayVec key len base = stateWrite (pass2At key len base 623).vec 0 arrayState0 := by
  rw [seedArrayVec]
  rfl

section
variable (key : Nat → Word) (len : Nat) (base : StateVec) (k : Nat)

@[simp] theorem pass1At_zero : pass1At key len base 0 = { vec := base, i := 1, j := 0 } := forCount_zero _ _ _

theorem pass1At_succ : pass1At key len base (k + 1) = pass1Body key len k (pass1At key len base k) := by
  rw [pass1At, forCount_succ_last, Nat.zero_add]
  rfl

@[simp] theorem pass2At_zero : pass2At key len base 0 = pass1At key len base (max 624 len) := forCount_zero _ _ _

theorem pass2At_succ : pass2At key len base (k + 1) = pass2Body k (pass2At key len base k) := by
  rw [pass2At, forCount_succ_last, Nat.zero_add]
  rfl

theorem pass1At_i : (pass1At key len base k).i = 1 + k % 623 := by
  induction k with
  | zero => rw [pass1At_zero]
  | succ k ih => rw [pass1At_succ]; exact pass1Body_i key len k ih

theorem pass2At_i : (pass2At key len base k).i = 1 + (max 624 len + k) % 623 := by
  induction k with
  | zero => exact (congrArg MixPass.i (pass2At_zero key len base)).trans (pass1At_i key len base _)
  | succ k ih => rw [pass2At_succ]; exact pass2Body_i k ih

/-- The key index of pass 1 in closed form (R61). -/
theorem pass1At_j (hlen : 0 < len) : (pass1At key len base k).j = k % len := by
  induction k with
  | zero => rw [pass1At_zero, Nat.zero_mod]
  | succ k ih =>
    have hlt : k % len < len := Nat.mod_lt k hlen
    rw [pass1At_succ, pass1Body_j, ih, ← Nat.mod_add_mod k len 1]
    split
    next hwrap => rw [show k % len + 1 = len by omega, Nat.mod_self]
    next hstay => rw [Nat.mod_eq_of_lt (show k % len + 1 < len by omega)]

/-- Pass 1 with both indices in closed form (R60, R61). -/
theorem pass1At_mixStep (hlen : 0 < len) :
    MixStep (1 + k % 623)
      ((stateRead (pass1At key len base k).vec (1 + k % 623) ^^^
          mixProduct (pass1At key len base k).vec (1 + k % 623) kPass1) + key (k % len) + u32 (k % len))
      (pass1At key len base k).vec (pass1At key len base (k + 1)).vec := by
  rw [pass1At_succ, ← pass1At_j key len base k hlen]
  exact pass1Body_mixStep key len k (pass1At_i key len base k)

/-- Pass 2 with its index in closed form (R60, R61). -/
theorem pass2At_mixStep :
    MixStep (1 + (max 624 len + k) % 623)
      ((stateRead (pass2At key len base k).vec (1 + (max 624 len + k) % 623) ^^^
          mixProduct (pass2At key len base k).vec (1 + (max 624 len + k) % 623) kPass2) -
        u32 (1 + (max 624 len + k) % 623))
      (pass2At key len base k).vec (pass2At key len base (k + 1)).vec := by
  rw [pass2At_succ]
  exact pass2Body_mixStep k (pass2At_i key len base k)

/-- The last write leaves the words of pass 2 but word 0 (R60). -/
theorem stateRead_seedArrayVec {x : Nat} (hx : 1 ≤ x) :
    stateRead (seedArrayVec key len base) x = stateRead (pass2At key len base 623).vec x := by
  rw [seedArrayVec_eq, stateRead_write_ne _ _ (by omega)]

end

/-- SeedArray leaves the keys as they are, and beside STATE writes CURSOR only (R60, R65). -/
theorem respond_seedArray (len : Nat) (s : State) :
    respond .ok 0#32 (seedArray len s) = { s with
      stateVec := seedArrayVec (keyRead s) len (seedVec arrayBaseSeed s.stateVec)
      cursor := 624#10
      rsp := some (rspOf 0x00#8 0#32) } := rfl

/-- Settles O39: the vectors after each iteration are those of `pass1At` and `pass2At`, begun on the words of
SeedScalar; the second pass goes on where the first one ends, and the last write is `seedArrayVec_zero`. -/
theorem seedaResult : Obligations.SeedaResult := by
  intro s hkeys
  have hlen : 0 < s.keyLen.toNat := Nat.pos_of_ne_zero fun h => hkeys (BitVec.eq_of_toNat_eq h)
  have hbase : ScalarSeeded 19650218#32 (seedVec arrayBaseSeed s.stateVec) := seedVec_seeded arrayBaseSeed s.stateVec
  have hexec := (exec_seeda_of_keys hkeys).trans (congrArg _ (respond_seedArray s.keyLen.toNat s))
  generalize seedVec arrayBaseSeed s.stateVec = base at hbase hexec
  refine ⟨fun k => (pass1At (keyRead s) s.keyLen.toNat base k).vec,
    fun k => (pass2At (keyRead s) s.keyLen.toNat base k).vec, seedArrayVec (keyRead s) s.keyLen.toNat base,
    ?_, fun k _ => pass1At_mixStep _ _ _ k hlen, ?_, fun k _ => pass2At_mixStep _ _ _ k,
    seedArrayVec_zero _ _ _, fun x hx _ => stateRead_seedArrayVec _ _ _ hx, hexec⟩
  · simpa only [pass1At_zero] using hbase
  · simp only [pass2At_zero]

end Sys2Proof.Machine
end

section
/-!
PROOFS of 41_seeding.md: the response a seeding command puts on the state, a draw that finds CURSOR at 624 or above, and
SeedArray on alike keys. From these the statements on KCLR, the two errors, the fallback seed and what a seeding forgets.
-/

namespace Sys2Proof.Machine

/-! ## The answers of KCLR, and of KPUSH and SEEDA refusing (R63, R64, R65) -/

/-- A response written out from its fields, on a state with every other field as before (R10, R48). -/
theorem respond_eq (code : RspCode) (data : Word) (s : State) :
    respond code data s = { s with rsp := some (rspOf (codeByte code) data) } := rfl

theorem exec_kclr (s : State) : exec .kclr s = .next (respond .ok 0#32 (s.setKeyLen 0#16)) := rfl

theorem State.setKeyLen_eq_self {s : State} {n : BitVec 16} (h : s.keyLen = n) : s.setKeyLen n = s := by
  subst h
  rfl

/-- Settles O38: `exec_seeda_of_empty`, the error response written out. -/
theorem seedaWithoutKeys : Obligations.SeedaWithoutKeys := fun s hempty =>
  (exec_seeda_of_empty hempty).trans (congrArg _ (respond_eq .invalidSeed 0#32 s))

/-- Settles O37: `exec_kpush_of_full`, the error response written out. -/
theorem kpushOverflow : Obligations.KpushOverflow := fun _ s hfull =>
  (exec_kpush_of_full hfull).trans (congrArg _ (respond_eq .keyOverflow 0#32 s))

/-- Settles O35: the table at OPC 0x02; KCLR writes KEYLEN, which is no change where it is 0 already; SEEDA then finds
no keys, whatever response is pending. -/
theorem kclrResult : Obligations.KclrResult := by
  refine ⟨fun arg => decode_append arg 0x02#8, exec_kclr, fun s hempty => ?_, fun s r => seedaWithoutKeys _ rfl⟩
  rw [exec_kclr, State.setKeyLen_eq_self hempty]
  rfl

/-! ## A draw with the words used up (R66, R72, R73) -/

/-- The twist writes STATE and CURSOR only (R66). -/
theorem twist_eq (s : State) : twist s = (s.setStateVec (twist s).stateVec).setCursor 0#10 := by
  simp only [twist]
  split <;> rfl

/-- From CURSOR 624 on a draw twists, reads the new word 0 and leaves CURSOR 1 (R72, R73). -/
theorem draw_of_ge {s : State} (h : 624 ≤ s.cursor.toNat) :
    draw s = (temper (stateRead (twist s).stateVec 0), (s.setStateVec (twist s).stateVec).setCursor 1#10) := by
  rw [draw, lazyTwist_of_ge h, twist_eq]
  rfl

theorem exec_draw (s : State) : exec .draw s = .next (respond .ok (draw s).1 (draw s).2) := rfl

/-- `draw_of_ge` as DRAW answers it, field by field (R75). -/
theorem exec_draw_of_ge {s : State} (h : 624 ≤ s.cursor.toNat) : exec .draw s = .next { s with
    stateVec := (twist s).stateVec
    cursor := 1#10
    rsp := some (rspOf 0x00#8 (temper (stateRead (twist s).stateVec 0))) } := by
  rw [exec_draw, draw_of_ge h]
  rfl

/-- Settles O45: CURSOR 625 is above 624, and there the twist is of the vector the scalar seeding with 5489 leaves. -/
theorem drawSeedsAtSentinel : Obligations.DrawSeedsAtSentinel := by
  intro s hc
  have hvec : (twist s).stateVec = twistVec (seedVec defaultSeed s.stateVec) := by rw [twist_stateVec, if_pos hc]
  have hexec := exec_draw_of_ge (s := s) (by rw [hc]; decide)
  rw [hvec] at hexec
  exact ⟨_, _, seedVec_seeded defaultSeed s.stateVec, twistVec_twistOf _, hexec⟩

/-! ## What a seeding forgets (R59, R60) -/

/-- SeedArray leaves the same STATE from the same keys below the length: it begins with SeedScalar (R60). -/
theorem seedArray_forgets {len : Nat} {s t : State} (hlen : 0 < len) (h : ∀ j, j < len → keyRead s j = keyRead t j) :
    (seedArray len s).stateVec = (seedArray len t).stateVec :=
  calc (seedArray len s).stateVec
      = seedArrayVec (keyRead s) len (seedVec arrayBaseSeed s.stateVec) := seedArray_stateVec len s
    _ = seedArrayVec (keyRead s) len (seedVec arrayBaseSeed t.stateVec) := by rw [seedVec_forgets _ s.stateVec]
    _ = seedArrayVec (keyRead t) len (seedVec arrayBaseSeed t.stateVec) := seedArrayVec_congr _ hlen h
    _ = (seedArray len t).stateVec := (seedArray_stateVec len t).symm

/-- Settles O40: `seedVec_forgets` for SEEDS; SEEDA finds keys in both states, and `seedArray_forgets`. -/
theorem seedingForgetsOldState : Obligations.SeedingForgetsOldState := by
  constructor
  · intro seed s t s' t' hs ht
    rw [exec_seeds] at hs ht
    cases hs
    cases ht
    exact seedVec_forgets seed s.stateVec t.stateVec
  · intro s t s' t' hkeys hlen hread hs ht
    have hpos : 0 < s.keyLen.toNat := Nat.pos_of_ne_zero fun h => hkeys (BitVec.eq_of_toNat_eq h)
    rw [exec_seeda_of_keys hkeys] at hs
    rw [exec_seeda_of_keys (hlen ▸ hkeys), ← hlen] at ht
    cases hs
    cases ht
    exact seedArray_forgets hpos hread

end Sys2Proof.Machine
end

section
/-!
PROOFS of 42_twist_and_draw.md: the xor-shift steps of temper, what the three segments determine of a twist, and a draw with
and without it. From these the statements on temper, the twist, DRAW and DRAW31, and the host's real53.
-/

namespace Sys2Proof.Machine

/-! ## temper is a bijection (R70, R71) -/

/-- `g` takes exactly one word to each word. -/
def OneToOneOnto (g : Word → Word) : Prop := ∀ z, ∃ y, g y = z ∧ ∀ y', g y' = z → y' = y

theorem OneToOneOnto.comp {g f : Word → Word} (hg : OneToOneOnto g) (hf : OneToOneOnto f) : OneToOneOnto (g ∘ f) := by
  intro z
  obtain ⟨x, hx, hxu⟩ := hg z
  obtain ⟨y, hy, hyu⟩ := hf x
  refine ⟨y, ?_, fun y' h => hyu y' (hxu (f y') h)⟩
  rw [Function.comp, hy, hx]

/-- Bit `i` of `f y` depends only on bits of `y` that come before `i` in the order `rank` gives. -/
def ReadsEarlierBits (rank : Nat → Nat) (f : Word → Word) : Prop :=
  ∀ y y' i, i < 32 → (∀ j, rank j < rank i → y.getLsbD j = y'.getLsbD j) → (f y).getLsbD i = (f y').getLsbD i

/-- The undoing of `y ^ f y = z` after `n` rounds: each round gets the bits of the next rank right (R71). -/
def undoXor (f : Word → Word) (z : Word) : Nat → Word
  | 0 => 0#32
  | n + 1 => z ^^^ f (undoXor f z n)

section Undo

variable {rank : Nat → Nat} {f : Word → Word}

/-- After `n` rounds the bits of a rank below `n` change no more. -/
theorem getLsbD_undoXor_succ (hf : ReadsEarlierBits rank f) (z : Word) (n : Nat) :
    ∀ i, i < 32 → rank i < n → (undoXor f z n).getLsbD i = (undoXor f z (n + 1)).getLsbD i := by
  induction n with
  | zero => exact fun _ _ h => absurd h (Nat.not_lt_zero _)
  | succ n ih =>
    intro i hi hrank
    have hearlier : ∀ j, rank j < rank i → (undoXor f z n).getLsbD j = (undoXor f z (n + 1)).getLsbD j := fun j hj => by
      by_cases hj32 : j < 32
      · exact ih j hj32 (by omega)
      · rw [BitVec.getLsbD_of_ge _ _ (by omega), BitVec.getLsbD_of_ge _ _ (by omega)]
    rw [undoXor, undoXor, BitVec.getLsbD_xor, BitVec.getLsbD_xor, hf _ _ i hi hearlier]

/-- Words with equal images agree bit by bit, along the order of the ranks. -/
theorem eq_of_xor_eq (hf : ReadsEarlierBits rank f) {y y' : Word} (h : y ^^^ f y = y' ^^^ f y') : y = y' := by
  have hbit : ∀ n i, rank i = n → y.getLsbD i = y'.getLsbD i := by
    intro n
    induction n using Nat.strongRecOn with
    | ind n ih =>
      intro i hrank
      by_cases hi : i < 32
      · have hxor := congrArg (fun w : Word => w.getLsbD i) h
        simp only [BitVec.getLsbD_xor, hf y y' i hi fun j hj => ih (rank j) (by omega) j rfl] at hxor
        exact Bool.xor_left_inj.1 hxor
      · rw [BitVec.getLsbD_of_ge _ _ (by omega), BitVec.getLsbD_of_ge _ _ (by omega)]
  exact BitVec.eq_of_getLsbD_eq fun i _ => hbit (rank i) i rfl

/-- A word is recovered from itself XORed with what reads earlier bits only: with every rank at most 32, 33 rounds of
undoing leave nothing to change. -/
theorem oneToOneOnto_xor (hf : ReadsEarlierBits rank f) (hrank : ∀ i, i < 32 → rank i ≤ 32) :
    OneToOneOnto fun y => y ^^^ f y := by
  intro z
  have hfix : undoXor f z 33 = z ^^^ f (undoXor f z 33) := BitVec.eq_of_getLsbD_eq fun i hi =>
    getLsbD_undoXor_succ hf z 33 i hi (Nat.lt_succ_of_le (hrank i hi))
  have hy : undoXor f z 33 ^^^ f (undoXor f z 33) = z :=
    calc undoXor f z 33 ^^^ f (undoXor f z 33)
        = (z ^^^ f (undoXor f z 33)) ^^^ f (undoXor f z 33) := congrArg (· ^^^ f (undoXor f z 33)) hfix
      _ = z := by rw [BitVec.xor_assoc, BitVec.xor_self, BitVec.xor_zero]
  exact ⟨_, hy, fun y' h => eq_of_xor_eq hf (h.trans hy.symm)⟩

end Undo

/-- A step with a right shift reads higher bits only, so it is undone from bit 31 down. -/
theorem oneToOneOnto_xor_ushiftRight {k : Nat} (hk : 1 ≤ k) (m : Word) :
    OneToOneOnto fun y => y ^^^ ((y >>> k) &&& m) := by
  refine oneToOneOnto_xor (rank := fun i => 32 - i) (f := fun y => (y >>> k) &&& m) (fun y y' i hi h => ?_)
    fun i _ => Nat.sub_le 32 i
  rw [BitVec.getLsbD_and, BitVec.getLsbD_and, BitVec.getLsbD_ushiftRight, BitVec.getLsbD_ushiftRight,
    h (k + i) (show 32 - (k + i) < 32 - i by omega)]

/-- A step with a left shift reads lower bits only, so it is undone from bit 0 up. -/
theorem oneToOneOnto_xor_shiftLeft {k : Nat} (hk : 1 ≤ k) (m : Word) :
    OneToOneOnto fun y => y ^^^ ((y <<< k) &&& m) := by
  refine oneToOneOnto_xor (rank := fun i => i) (f := fun y => (y <<< k) &&& m) (fun y y' i hi h => ?_)
    fun i hi => Nat.le_of_lt hi
  rw [BitVec.getLsbD_and, BitVec.getLsbD_and, BitVec.getLsbD_shiftLeft, BitVec.getLsbD_shiftLeft]
  by_cases hik : i < k
  · simp only [hik, decide_true, Bool.not_true, Bool.and_false, Bool.false_and]
  · rw [h (i - k) (show i - k < i by omega)]

/-- temper as its four steps, the unmasked ones with a mask of all ones (R70, R71). -/
theorem temper_eq_steps : temper =
    (fun y : Word => y ^^^ ((y >>> 18) &&& 0xFFFFFFFF#32)) ∘ (fun y : Word => y ^^^ ((y <<< 15) &&& 0xEFC60000#32)) ∘
      (fun y : Word => y ^^^ ((y <<< 7) &&& 0x9D2C5680#32)) ∘ fun y : Word => y ^^^ ((y >>> 11) &&& 0xFFFFFFFF#32) := by
  have hones : ∀ y : Word, y &&& 0xFFFFFFFF#32 = y := fun _ => BitVec.and_allOnes
  funext y
  simp only [Function.comp, hones, temper]

theorem temper_oneToOneOnto : OneToOneOnto temper := by
  rw [temper_eq_steps]
  exact (oneToOneOnto_xor_ushiftRight (by decide) _).comp <| (oneToOneOnto_xor_shiftLeft (by decide) _).comp <|
    (oneToOneOnto_xor_shiftLeft (by decide) _).comp (oneToOneOnto_xor_ushiftRight (by decide) _)

/-- Settles O11: each step by the bits it reads, temper as their composition; the vectors are evaluated. -/
theorem temperIsBijective : Obligations.TemperIsBijective := by
  refine ⟨by decide, fun k m hk => ⟨oneToOneOnto_xor_ushiftRight hk m, oneToOneOnto_xor_shiftLeft hk m⟩, ?_,
    temper_oneToOneOnto, by decide⟩
  rintro y0 _ _ _ rfl rfl rfl
  exact congrFun temper_eq_steps y0

/-! ## What the three segments determine (R67, R68) -/

/-- Settles O12: the invariant of the in-place pass, read off after the last index. -/
theorem twistInThreeSegments : Obligations.TwistInThreeSegments := twistVec_twistOf

/-- `T` reads bit 31 alone of the word at kk (R68). -/
theorem segmentWord_congr_bit {a a' : Word} (h : a.getLsbD 31 = a'.getLsbD 31) (b c : Word) :
    segmentWord a b c = segmentWord a' b c := by
  have hmask : ∀ x : Word, x &&& 0x80000000#32 = if x.getLsbD 31 then BitVec.twoPow 32 31 else 0#32 := fun x =>
    BitVec.and_twoPow x 31
  simp only [segmentWord, hmask, h]

/-- The segments leave one twist, whatever bits 30:0 of word 0 are: each word is made from old words at 1 and above, from
twisted words below it, and from bit 31 of the old word in its own place. -/
theorem TwistOf.unique {a a' b b' : StateVec} (h : TwistOf a b) (h' : TwistOf a' b')
    (hwords : ∀ i, 1 ≤ i → i < 624 → stateRead a i = stateRead a' i)
    (hbit : (stateRead a 0).getLsbD 31 = (stateRead a' 0).getLsbD 31) : b = b' := by
  obtain ⟨hlow, hmid, hlast⟩ := h
  obtain ⟨hlow', hmid', hlast'⟩ := h'
  have hown : ∀ i, i < 624 → ∀ x y,
      segmentWord (stateRead a i) x y = segmentWord (stateRead a' i) x y := fun i hi => by
    obtain rfl | hpos := Nat.eq_zero_or_pos i
    · exact segmentWord_congr_bit hbit
    · rw [hwords i hpos hi]
      exact fun _ _ => rfl
  refine stateVec_ext fun i => ?_
  induction i using Nat.strongRecOn with
  | ind i ih =>
    intro hi
    obtain hi | hi | rfl : i < 227 ∨ (227 ≤ i ∧ i < 623) ∨ i = 623 := by omega
    · rw [hlow i hi, hlow' i hi, hown i (by omega), hwords (i + 1) (by omega) (by omega),
        hwords (i + 397) (by omega) (by omega)]
    · rw [hmid i hi.1 hi.2, hmid' i hi.1 hi.2, hown i (by omega), hwords (i + 1) (by omega) (by omega),
        ih (i - 227) (by omega) (by omega)]
    · rw [hlast, hlast', hown 623 (by decide), ih 0 (by decide) (by decide), ih 396 (by decide) (by decide)]

/-- Settles O13: both twists meet the segments, and `TwistOf.unique`. -/
theorem twistReadsOneBitOfWordZero : Obligations.TwistReadsOneBitOfWordZero := fun v w =>
  (twistVec_twistOf v).unique (twistVec_twistOf w)

/-! ## The twist of the one-bit vector and of zero (R69) -/

/-- Between zero words `T` hands the word at kk + M on. -/
theorem segmentWord_zero (c : Word) : segmentWord 0#32 0#32 c = c := by
  simp only [segmentWord, BitVec.zero_and, BitVec.or_zero, BitVec.zero_ushiftRight, BitVec.xor_zero, BitVec.getLsbD_zero,
    Bool.false_eq_true, if_false]

/-- The bit moves to word 0, from there 227 words up twice, and as the word after 623 into word 623. -/
theorem stateRead_twist_of_oneBit {a b : StateVec} (h : TwistOf a b) (hzero : stateRead a 0 = 0x80000000#32)
    (hrest : ∀ i, 1 ≤ i → i < 624 → stateRead a i = 0#32) {i : Nat} (hi : i < 624) :
    stateRead b i =
      if i = 0 ∨ i = 227 ∨ i = 454 then 0x40000000#32 else if i = 623 then 0x20000000#32 else 0#32 := by
  obtain ⟨hlow, hmid, hlast⟩ := h
  have hfirst : ∀ n, n < 227 → stateRead b n = if n = 0 then 0x40000000#32 else 0#32 := fun n hn => by
    rw [hlow n hn, hrest (n + 1) (by omega) (by omega), hrest (n + 397) (by omega) (by omega)]
    split
    next h0 => rw [h0, hzero]; decide
    next h0 => rw [hrest n (by omega) (by omega), segmentWord_zero]
  have hback : ∀ n, 227 ≤ n → n < 623 → stateRead b n = stateRead b (n - 227) := fun n hlo hhi => by
    rw [hmid n hlo hhi, hrest n (by omega) (by omega), hrest (n + 1) (by omega) (by omega), segmentWord_zero]
  have hbelow : ∀ n, n < 623 → stateRead b n = if n % 227 = 0 then 0x40000000#32 else 0#32 := fun n hn => by
    induction n using Nat.strongRecOn with
    | ind n ih =>
      by_cases hlo : n < 227
      · rw [hfirst n hlo, Nat.mod_eq_of_lt hlo]
      · rw [hback n (by omega) hn, ih (n - 227) (by omega) (by omega), ← Nat.mod_eq_sub_mod (by omega)]
  obtain hlt | rfl : i < 623 ∨ i = 623 := by omega
  · rw [hbelow i hlt, if_neg (show ¬ i = 623 by omega)]
    exact ite_congr (propext (by omega)) (fun _ => rfl) fun _ => rfl
  · rw [hlast, hrest 623 (by decide) (by decide), hbelow 0 (by decide), hbelow 396 (by decide)]
    decide

/-- The zero vector meets the segments with itself. -/
theorem twistOf_self_of_zero {v : StateVec} (h : ∀ i, i < 624 → stateRead v i = 0#32) : TwistOf v v := by
  refine ⟨fun kk hkk => ?_, fun kk hlo hhi => ?_, ?_⟩
  · rw [h kk (by omega), h (kk + 1) (by omega), h (kk + 397) (by omega), segmentWord_zero]
  · rw [h kk (by omega), h (kk + 1) (by omega), h (kk - 227) (by omega), segmentWord_zero]
  · rw [h 623 (by decide), h 0 (by decide), h 396 (by decide), segmentWord_zero]

/-- Settles O14: the words of the one-bit vector along the segments; of the zero vector by `TwistOf.unique`. -/
theorem twistOfOneBitVector : Obligations.TwistOfOneBitVector :=
  ⟨fun v hzero hrest _ hi => stateRead_twist_of_oneBit (twistVec_twistOf v) hzero hrest hi,
    fun v h => (twistVec_twistOf v).unique (twistOf_self_of_zero h) (fun _ _ _ => rfl) rfl⟩

/-! ## DRAW and DRAW31 (R73, R75, R76) -/

/-- Below CURSOR 624 a draw reads the word at CURSOR and moves CURSOR on (R72, R73). -/
theorem draw_of_lt {s : State} (h : s.cursor.toNat < 624) :
    draw s = (temper (stateRead s.stateVec s.cursor.toNat), s.setCursor (s.cursor + 1#10)) := by
  rw [draw, lazyTwist_of_lt h]

/-- Settles O43: `draw_of_lt`, with the steps of the tempering named. -/
theorem drawWithoutTwist : Obligations.DrawWithoutTwist := by
  rintro s _ _ _ _ hc rfl rfl rfl rfl
  rw [exec_draw, draw_of_lt (by omega), respond_eq]
  rfl

/-- Settles O44: `exec_draw_of_ge`; off the sentinel the twist is of STATE as it stands. -/
theorem drawTwistsWhenExhausted : Obligations.DrawTwistsWhenExhausted := by
  intro s hge hne
  have htwist : TwistOf s.stateVec (twist s).stateVec := by
    rw [twist_stateVec, if_neg hne]
    exact twistVec_twistOf s.stateVec
  exact ⟨_, htwist, exec_draw_of_ge hge⟩

/-- Settles O46: both commands put their response on the state `draw` leaves. -/
theorem draw31IsDrawShifted : Obligations.Draw31IsDrawShifted := fun s =>
  ⟨(draw s).2, (draw s).1, rfl, rfl, (BitVec.getLsbD_ushiftRight ..).trans (BitVec.getLsbD_of_ge _ _ (by decide))⟩

/-- Word 0 after the first twist of the default seed (L2.1). The seeding forgets the old vector, so the passes are
evaluated on one whose words are known. -/
theorem stateRead_twist_defaultSeed (v : StateVec) : stateRead (twistVec (seedVec defaultSeed v)) 0 = 0x9B0AFA27#32 := by
  have hnats : Fast.nats (Vector.replicate 624 0#32) = 0 :: List.replicate 623 0 := by
    rw [Fast.nats, Vector.toList_replicate, List.map_replicate]
    rfl
  apply BitVec.eq_of_toNat_eq
  rw [seedVec_forgets defaultSeed v (Vector.replicate 624 0#32), ← Fast.nats_get,
    Fast.twistVec_nats (Fast.seedVec_nats defaultSeed hnats)]
  decide +kernel

/-- Settles O47: CURSOR 625 is above 624, and the word is `stateRead_twist_defaultSeed` tempered. -/
theorem defaultFirstDraw : Obligations.DefaultFirstDraw := by
  intro s hc
  have hrsp : rspOf 0x00#8 (temper (stateRead (twist s).stateVec 0)) = 0xD091BB5C00000000#64 := by
    rw [twist_stateVec, if_pos hc, stateRead_twist_defaultSeed]
    decide
  exact ⟨_, exec_draw_of_ge (by rw [hc]; decide), rfl, congrArg some hrsp⟩

/-! ## real53 (R83) -/

/-- The state after a DRAW whose response the host has taken. -/
def afterDraw (s : State) : State := taken (draw s).1 (draw s).2

theorem call_draw (s : State) : call .draw s = some (responseWord .ok (draw s).1, afterDraw s) :=
  call_of_exec (decode_encode .draw) (exec_draw s) rfl

/-- The transfer clears the response, records it for the host whose token it was and advances CMDIDX (R19, R109). -/
theorem afterDraw_eq (s : State) : afterDraw s = { respond .ok (draw s).1 (draw s).2 with
    rsp := none
    delivered := s.delivered ++ [(s.owner, rspOf 0x00#8 (draw s).1)]
    cmdIdx := s.cmdIdx + 1 } := by
  rw [← draw_delivered s, ← draw_owner s, ← draw_cmdIdx s]
  rfl

theorem afterDraw_cursor (s : State) : (afterDraw s).cursor = (draw s).2.cursor := rfl

/-- CURSOR after two draws: two words are consumed, across the twist too. -/
theorem afterDraw_afterDraw_cursor (s : State) : (afterDraw (afterDraw s)).cursor.toNat =
    if s.cursor.toNat < 623 then s.cursor.toNat + 2 else if s.cursor.toNat = 623 then 1 else 2 := by
  rw [afterDraw_cursor, draw_cursor_toNat, afterDraw_cursor, draw_cursor_toNat]
  obtain h | h | h : s.cursor.toNat < 623 ∨ s.cursor.toNat = 623 ∨ 624 ≤ s.cursor.toNat := by omega
  · rw [if_pos (show s.cursor.toNat < 624 by omega), if_pos (show s.cursor.toNat + 1 < 624 by omega), if_pos h]
  · rw [h]
    decide
  · rw [if_neg (show ¬ s.cursor.toNat < 624 by omega), if_pos (by decide), if_neg (show ¬ s.cursor.toNat < 623 by omega),
      if_neg (show ¬ s.cursor.toNat = 623 by omega)]

theorem hostReal53_eq (s : State) :
    hostReal53 s = some (real53 (draw s).1 (draw (afterDraw s)).1, afterDraw (afterDraw s)) := by
  simp only [hostReal53, call_draw, Option.bind_some, Option.map_some, dataField_responseWord]

/-- Settles O55: real53 is `hostReal53_eq`, and `afterDraw_eq` says what each of the two calls leaves. -/
theorem real53DrawsTwoWords : Obligations.Real53DrawsTwoWords := by
  intro s
  refine ⟨_, _, afterDraw (afterDraw s), (draw s).1, (draw (afterDraw s)).1, exec_draw s, rfl,
    (congrArg (exec .draw) (afterDraw_eq s).symm).trans (exec_draw _), rfl, ?_, hostReal53_eq s,
    afterDraw_afterDraw_cursor s⟩
  have hidx : (afterDraw s).cmdIdx = s.cmdIdx + 1 := by rw [afterDraw_eq]
  have hdelivered : (afterDraw s).delivered = s.delivered ++ [(s.owner, rspOf 0x00#8 (draw s).1)] := by
    rw [afterDraw_eq]
  have howner : (afterDraw s).owner = s.owner := draw_owner s
  rw [afterDraw_eq (afterDraw s), hidx, hdelivered, howner, List.append_assoc]
  rfl

end Sys2Proof.Machine
end

section
/-!
PROOFS of 43_status.md: the status word as its four fields, and from it the statement on RDSTAT.
-/

namespace Sys2Proof.Machine

/-- The fields of the status word from bit 31 down (R77). Fields side by side are the fields shifted into place and
ORed, and the five zero bits 15:11 add nothing. -/
theorem statusWord_eq_append (cursor : BitVec 10) (keyLen : BitVec 16) :
    statusWord cursor keyLen = keyLen ++ 0#5 ++ (if cursor = 625#10 then 0#1 else 1#1) ++ cursor := by
  have hseeded : (if cursor ≠ 625#10 then 1#32 <<< 10 else 0#32) =
      (if cursor = 625#10 then 0#1 else 1#1).setWidth 32 <<< 10 := by
    by_cases h : cursor = 625#10
    · rw [if_neg (not_not_intro h), if_pos h]
      rfl
    · rw [if_pos h, if_neg h]
      rfl
  rw [statusWord, hseeded, ← BitVec.setWidth_eq (keyLen ++ 0#5 ++ _ ++ cursor),
    BitVec.setWidth_append_append_append_eq_shiftLeft_setWidth_or, BitVec.setWidth_zero, BitVec.zero_shiftLeft,
    BitVec.or_zero]

theorem exec_rdstat (s : State) : exec .rdstat s = .next (respond .ok (statusWord s.cursor s.keyLen) s) := rfl

/-- Settles O49: `exec_rdstat`, with the status word as its fields and the response written out. -/
theorem rdstatResult : Obligations.RdstatResult := by
  intro s
  rw [exec_rdstat, statusWord_eq_append, respond_eq, codeByte]

end Sys2Proof.Machine
end

section
/-!
PROOFS of 44_host_outputs.md: rounding to binary64 between bounds that binary64 holds, so that an operation whose result
binary64 holds is exact; and the host's construction stopping at the first error. From these the statements on the
real-valued outputs and on the constructor's two failures.
-/

namespace Sys2Proof.Machine

/-! ## A quotient rounded to a natural number (R79) -/

/-- At `n / d = M` nothing remains, so nothing is added. -/
theorem nearestEven_le {n d M : Nat} (hd : 0 < d) (h : n ≤ M * d) : nearestEven n d ≤ M := by
  have hdiv := Nat.div_add_mod n d
  have hq : n / d ≤ M := Nat.div_le_of_le_mul (by rwa [Nat.mul_comm])
  obtain hlt | heq := Nat.lt_or_eq_of_le hq
  · simp only [nearestEven]
    split <;> omega
  · have hr : n % d = 0 := by
      rw [heq, Nat.mul_comm d] at hdiv
      omega
    simp only [nearestEven, hr, heq]
    exact Nat.le_of_eq (if_neg (by omega))

theorem le_nearestEven {n d M : Nat} (hd : 0 < d) (h : M * d ≤ n) : M ≤ nearestEven n d := by
  have hq : M ≤ n / d := (Nat.le_div_iff_mul_le hd).2 h
  simp only [nearestEven]
  split <;> omega

/-! ## Powers of two as rational numbers -/

theorem two_zpow_pos (x : Int) : (0 : Rat) < 2 ^ x := Rat.zpow_pos (by decide)

theorem two_zpow_add (x y : Int) : (2 : Rat) ^ (x + y) = 2 ^ x * 2 ^ y := Rat.zpow_add (by decide) x y

theorem natCast_two_pow (j : Nat) : ((2 ^ j : Nat) : Rat) = 2 ^ (j : Int) := by
  rw [Rat.natCast_pow, Rat.zpow_natCast, Rat.natCast_ofNat]

theorem two_zpow_le {x y : Int} (h : x ≤ y) : (2 : Rat) ^ x ≤ 2 ^ y := by
  obtain ⟨j, rfl⟩ := Int.le.dest h
  have hone : ((1 : Nat) : Rat) ≤ (2 ^ j : Nat) := Rat.natCast_le_natCast.2 (Nat.two_pow_pos j)
  have hmul := Rat.mul_le_mul_of_nonneg_left hone (Rat.le_of_lt (two_zpow_pos x))
  rwa [natCast_two_pow, ← two_zpow_add, Rat.natCast_ofNat, Rat.mul_one] at hmul

theorem two_pow_mul_two_zpow_neg (k : Nat) : ((2 ^ k : Nat) : Rat) * 2 ^ (-(k : Int)) = 1 := by
  rw [natCast_two_pow, ← two_zpow_add, Int.add_right_neg, Rat.zpow_zero]

theorem mul_two_zpow_neg (q : Rat) (k : Nat) : q * 2 ^ (-(k : Int)) = q / (2 ^ k : Nat) := by
  rw [Rat.div_def, Rat.zpow_neg, natCast_two_pow]

theorem mul_le_mul_right_iff {a b c : Rat} (hc : 0 < c) : a * c ≤ b * c ↔ a ≤ b := by
  rw [← Rat.not_lt, ← Rat.not_lt, Rat.mul_lt_mul_right hc]

/-! ## The exponent a quotient is rounded at

The quotient of `num` by `den` is a rational `q` with `num = q * den`. -/

section Exponent
variable {num den : Nat} {q : Rat}

/-- The unit both numbers that `roundBinary64` divides are multiples of. -/
def scaleUnit (den : Nat) (x : Int) : Rat := (den * 2 ^ (-x).toNat : Nat)

theorem scaleUnit_pos (hden : 0 < den) (x : Int) : 0 < scaleUnit den x :=
  Rat.natCast_pos.2 (Nat.mul_pos hden (Nat.two_pow_pos _))

theorem scaled_num_eq (hq : (num : Rat) = q * den) (x : Int) :
    ((num * 2 ^ (-x).toNat : Nat) : Rat) = q * scaleUnit den x := by
  rw [scaleUnit, Rat.natCast_mul, Rat.natCast_mul, hq, Rat.mul_assoc]

theorem mul_scaled_den_eq (den M : Nat) (x : Int) :
    ((M * (den * 2 ^ x.toNat) : Nat) : Rat) = M * 2 ^ x * scaleUnit den x := by
  have hexp : ((x.toNat : Nat) : Int) = x + ((-x).toNat : Nat) := by omega
  have hpow : ((2 ^ x.toNat : Nat) : Rat) = 2 ^ x * (2 ^ (-x).toNat : Nat) := by
    rw [natCast_two_pow, natCast_two_pow, ← two_zpow_add, ← hexp]
  rw [scaleUnit, Rat.natCast_mul, Rat.natCast_mul, Rat.natCast_mul, hpow, Rat.mul_assoc, ← Rat.mul_assoc (den : Rat),
    Rat.mul_comm (den : Rat), Rat.mul_assoc (2 ^ x)]

theorem scaled_den_pos (hden : 0 < den) (x : Int) : 0 < den * 2 ^ x.toNat :=
  Nat.mul_pos hden (Nat.two_pow_pos _)

theorem mul_scaled_den_le_iff (hden : 0 < den) (hq : (num : Rat) = q * den) (M : Nat) (x : Int) :
    M * (den * 2 ^ x.toNat) ≤ num * 2 ^ (-x).toNat ↔ (M : Rat) * 2 ^ x ≤ q := by
  rw [← Rat.natCast_le_natCast, mul_scaled_den_eq, scaled_num_eq hq, mul_le_mul_right_iff (scaleUnit_pos hden x)]

theorem le_mul_scaled_den_iff (hden : 0 < den) (hq : (num : Rat) = q * den) (M : Nat) (x : Int) :
    num * 2 ^ (-x).toNat ≤ M * (den * 2 ^ x.toNat) ↔ q ≤ M * 2 ^ x := by
  rw [← Rat.natCast_le_natCast, mul_scaled_den_eq, scaled_num_eq hq, mul_le_mul_right_iff (scaleUnit_pos hden x)]

/-- Two numbers of `a + 1` and `b + 1` bits have a quotient above `2^(a - b - 1)`. -/
theorem two_zpow_log2_le (hnum : num ≠ 0) (hden : 0 < den) (hq : (num : Rat) = q * den) :
    (2 : Rat) ^ ((Nat.log2 num : Int) - Nat.log2 den - 1) ≤ q := by
  have hn : ((2 ^ Nat.log2 num : Nat) : Rat) ≤ num := Rat.natCast_le_natCast.2 (Nat.log2_self_le hnum)
  have hd : (den : Rat) ≤ (2 ^ (Nat.log2 den + 1) : Nat) := Rat.natCast_le_natCast.2 (Nat.le_of_lt Nat.lt_log2_self)
  have hexp : (Nat.log2 num : Int) - Nat.log2 den - 1 + ((Nat.log2 den + 1 : Nat) : Int) = Nat.log2 num := by omega
  have hmul := Rat.mul_le_mul_of_nonneg_left hd
    (Rat.le_of_lt (two_zpow_pos ((Nat.log2 num : Int) - Nat.log2 den - 1)))
  rw [natCast_two_pow, ← two_zpow_add, hexp, ← natCast_two_pow] at hmul
  have hle := Rat.le_trans hmul hn
  rwa [hq, mul_le_mul_right_iff (Rat.natCast_pos.2 hden)] at hle

/-- At the exponent of `leadExp` the quotient has at least 53 bits before the point. -/
theorem two_zpow_leadExp_le (hnum : num ≠ 0) (hden : 0 < den) (hq : (num : Rat) = q * den) :
    (2 : Rat) ^ (52 + leadExp num den) ≤ q := by
  simp only [leadExp]
  split
  next =>
    have hexp : 52 + ((Nat.log2 num : Int) - Nat.log2 den - 52 - 1) = Nat.log2 num - Nat.log2 den - 1 := by omega
    rw [hexp]
    exact two_zpow_log2_le hnum hden hq
  next h =>
    rw [Nat.not_lt, Nat.le_div_iff_mul_le (scaled_den_pos hden _), mul_scaled_den_le_iff hden hq, natCast_two_pow] at h
    rw [two_zpow_add]
    exact h

end Exponent

/-! ## Rounding keeps every bound that binary64 holds -/

/-- The rational number is one binary64 holds: it has a significand of at most 53 bits (R79, log 13). -/
def Representable (q : Rat) : Prop := ∃ (m : Nat) (k : Int), m < 2 ^ 53 ∧ q = m * 2 ^ k

theorem representable_mul_two_zpow {n : Nat} (hn : n < 2 ^ 53) (k : Int) : Representable (n * 2 ^ k) := ⟨n, k, hn, rfl⟩

theorem representable_natCast {n : Nat} (hn : n < 2 ^ 53) : Representable n :=
  ⟨n, 0, hn, by rw [Rat.zpow_zero, Rat.mul_one]⟩

theorem Binary64.value_zero : Binary64.value { sig := 0, exp := 0 } = 0 := Rat.zero_mul _

theorem value_roundBinary64_zero (den : Nat) (e : Int) : (roundBinary64 0 den e).value = 0 := by
  rw [roundBinary64, if_pos rfl, Binary64.value_zero]

/-- A significand that rounding carried to `2^53` stands for the same number as `2^52` one exponent up. -/
theorem value_roundBinary64 {num : Nat} (hnum : num ≠ 0) (den : Nat) (e : Int) :
    (roundBinary64 num den e).value =
      (nearestEven (num * 2 ^ (-leadExp num den).toNat) (den * 2 ^ (leadExp num den).toNat) : Rat) *
        2 ^ leadExp num den * 2 ^ e := by
  rw [Rat.mul_assoc, ← two_zpow_add]
  simp only [roundBinary64, if_neg hnum]
  split
  next h =>
    have hexp : ((52 : Nat) : Int) + (leadExp num den + e + 1) = ((53 : Nat) : Int) + (leadExp num den + e) := by omega
    rw [Binary64.value, h, natCast_two_pow, natCast_two_pow, ← two_zpow_add, ← two_zpow_add, hexp]
  next => rfl

section Bounds
variable {num den : Nat} {e : Int} {q b : Rat}

/-- A bound above the quotient that binary64 holds is a multiple of the unit that rounding works at: the quotient has 53
bits before the point (`two_zpow_leadExp_le`), and the bound has no more. -/
theorem Representable.exists_multiple (hb : Representable b) (hnum : num ≠ 0) (hden : 0 < den)
    (hq : (num : Rat) = q * den) (h : q * 2 ^ e ≤ b) : ∃ M : Nat, b = M * 2 ^ leadExp num den * 2 ^ e := by
  obtain ⟨m, k, hm, rfl⟩ := hb
  have hk : leadExp num den + e ≤ k := Int.not_lt.1 fun hlt => by
    have hbelow := Rat.mul_lt_mul_of_pos_right (Rat.natCast_lt_natCast.2 hm) (two_zpow_pos k)
    have hstep : (2 : Rat) ^ (((53 : Nat) : Int) + k) ≤ 2 ^ (52 + leadExp num den + e) := two_zpow_le (by omega)
    have habove := Rat.mul_le_mul_of_nonneg_right (two_zpow_leadExp_le hnum hden hq) (Rat.le_of_lt (two_zpow_pos e))
    rw [natCast_two_pow, ← two_zpow_add] at hbelow
    rw [← two_zpow_add] at habove
    exact Rat.not_le.2 hbelow (Rat.le_trans (Rat.le_trans hstep habove) h)
  obtain ⟨j, rfl⟩ := Int.le.dest hk
  refine ⟨m * 2 ^ j, ?_⟩
  rw [Rat.natCast_mul, natCast_two_pow, Rat.mul_assoc, Rat.mul_assoc, ← two_zpow_add, ← two_zpow_add,
    Int.add_comm (j : Int)]

/-- Rounding does not pass a number binary64 holds. -/
theorem value_roundBinary64_le (hden : 0 < den) (hq : (num : Rat) = q * den) (hb : Representable b) (hpos : 0 ≤ b)
    (h : q * 2 ^ e ≤ b) : (roundBinary64 num den e).value ≤ b := by
  by_cases hnum : num = 0
  · rwa [hnum, value_roundBinary64_zero]
  obtain ⟨M, rfl⟩ := hb.exists_multiple hnum hden hq h
  rw [mul_le_mul_right_iff (two_zpow_pos e), ← le_mul_scaled_den_iff hden hq] at h
  rw [value_roundBinary64 hnum, mul_le_mul_right_iff (two_zpow_pos e), mul_le_mul_right_iff (two_zpow_pos _),
    Rat.natCast_le_natCast]
  exact nearestEven_le (scaled_den_pos hden _) h

/-- Rounding a number binary64 holds changes nothing. -/
theorem value_roundBinary64_of_representable (hden : 0 < den) (hq : (num : Rat) = q * den)
    (h : Representable (q * 2 ^ e)) : (roundBinary64 num den e).value = q * 2 ^ e := by
  by_cases hnum : num = 0
  · have hzero : q = 0 := by
      rw [hnum] at hq
      exact (Rat.mul_eq_zero.1 hq.symm).resolve_right fun hd => Nat.ne_of_gt hden (Rat.natCast_eq_zero_iff.1 hd)
    rw [hnum, hzero, value_roundBinary64_zero, Rat.zero_mul]
  obtain ⟨M, hM⟩ := h.exists_multiple hnum hden hq Rat.le_refl
  have hle : q ≤ M * 2 ^ leadExp num den := (mul_le_mul_right_iff (two_zpow_pos e)).1 (hM ▸ Rat.le_refl)
  have hge : M * 2 ^ leadExp num den ≤ q := (mul_le_mul_right_iff (two_zpow_pos e)).1 (hM ▸ Rat.le_refl)
  have hround : nearestEven (num * 2 ^ (-leadExp num den).toNat) (den * 2 ^ (leadExp num den).toNat) = M :=
    Nat.le_antisymm
      (nearestEven_le (scaled_den_pos hden _) ((le_mul_scaled_den_iff hden hq ..).2 hle))
      (le_nearestEven (scaled_den_pos hden _) ((mul_scaled_den_le_iff hden hq ..).2 hge))
  rw [value_roundBinary64 hnum, hround, hM]

end Bounds

/-! ## The operations on binary64 (R79) -/

theorem Binary64.value_nonneg (x : Binary64) : 0 ≤ x.value :=
  Rat.mul_nonneg Rat.natCast_nonneg (Rat.le_of_lt (two_zpow_pos x.exp))

theorem natCast_eq_mul_one (n : Nat) : (n : Rat) = n * (1 : Nat) := (Rat.mul_one _).symm

/-- Every natural number below `2^53`, a u32 among them, converts exactly. -/
theorem value_ofNat64 {n : Nat} (hn : n < 2 ^ 53) : (ofNat64 n).value = n := by
  have h := value_roundBinary64_of_representable Nat.one_pos (natCast_eq_mul_one n) (representable_mul_two_zpow hn 0)
  rwa [Rat.zpow_zero, Rat.mul_one] at h

/-- The constant `1 / 2^k` is exact. -/
theorem value_recip64_two_pow (k : Nat) : (recip64 (2 ^ k)).value = 2 ^ (-(k : Int)) := by
  have hq : ((1 : Nat) : Rat) = 2 ^ (-(k : Int)) * (2 ^ k : Nat) := by
    rw [Rat.mul_comm, two_pow_mul_two_zpow_neg, Rat.natCast_ofNat]
  have hrep : Representable (2 ^ (-(k : Int)) * 2 ^ (0 : Int)) :=
    ⟨1, -k, by decide, by rw [Rat.zpow_zero, Rat.mul_one, Rat.natCast_ofNat, Rat.one_mul]⟩
  rw [recip64, value_roundBinary64_of_representable (Nat.two_pow_pos k) hq hrep, Rat.zpow_zero, Rat.mul_one]

section Operations
variable {a b : Binary64}

/-- What `mul64` rounds is the product. -/
theorem mul_value (a b : Binary64) : ((a.sig * b.sig : Nat) : Rat) * 2 ^ (a.exp + b.exp) = a.value * b.value := by
  rw [Binary64.value, Binary64.value, two_zpow_add, Rat.natCast_mul, Rat.mul_assoc, Rat.mul_assoc,
    ← Rat.mul_assoc (b.sig : Rat), ← Rat.mul_assoc (2 ^ a.exp), Rat.mul_comm (b.sig : Rat)]

theorem value_mul64 (h : Representable (a.value * b.value)) : (mul64 a b).value = a.value * b.value := by
  rw [← mul_value] at h ⊢
  exact value_roundBinary64_of_representable Nat.one_pos (natCast_eq_mul_one _) h

theorem value_mul64_le {c : Rat} (hc : Representable c) (hpos : 0 ≤ c) (h : a.value * b.value ≤ c) :
    (mul64 a b).value ≤ c := by
  rw [← mul_value] at h
  exact value_roundBinary64_le Nat.one_pos (natCast_eq_mul_one _) hc hpos h

/-- A number over the unit of a smaller exponent. -/
theorem value_of_exp_le (a : Binary64) {e : Int} (h : e ≤ a.exp) :
    a.value = ((a.sig * 2 ^ (a.exp - e).toNat : Nat) : Rat) * 2 ^ e := by
  have hexp : (((a.exp - e).toNat : Nat) : Int) + e = a.exp := by omega
  rw [Binary64.value, Rat.natCast_mul, natCast_two_pow, Rat.mul_assoc, ← two_zpow_add, hexp]

theorem value_add64 (h : Representable (a.value + b.value)) : (add64 a b).value = a.value + b.value := by
  have hsum : a.value + b.value = ((a.sig * 2 ^ (a.exp - min a.exp b.exp).toNat +
      b.sig * 2 ^ (b.exp - min a.exp b.exp).toNat : Nat) : Rat) * 2 ^ min a.exp b.exp := by
    rw [value_of_exp_le a (Int.min_le_left ..), value_of_exp_le b (Int.min_le_right ..), Rat.natCast_add, Rat.add_mul]
  rw [hsum] at h ⊢
  exact value_roundBinary64_of_representable Nat.one_pos (natCast_eq_mul_one _) h

end Operations

/-! ## The real-valued outputs -/

section Outputs
variable {a b : Binary64} {m n : Nat}

theorem value_mul64_natCast (ha : a.value = m) (hb : b.value = n) (h : m * n < 2 ^ 53) :
    (mul64 a b).value = (m * n : Nat) := by
  have hprod : a.value * b.value = (m * n : Nat) := by rw [ha, hb, Rat.natCast_mul]
  rw [value_mul64 (hprod ▸ representable_natCast h), hprod]

theorem value_add64_natCast (ha : a.value = m) (hb : b.value = n) (h : m + n < 2 ^ 53) :
    (add64 a b).value = (m + n : Nat) := by
  have hsum : a.value + b.value = (m + n : Nat) := by rw [ha, hb, Rat.natCast_add]
  rw [value_add64 (hsum ▸ representable_natCast h), hsum]

/-- Multiplying by the constant `1 / 2^k` moves the point and rounds nothing. -/
theorem value_mul64_recip64_two_pow {x : Rat} (ha : a.value = x) (k : Nat) (hx : Representable (x * 2 ^ (-(k : Int)))) :
    (mul64 a (recip64 (2 ^ k))).value = x * 2 ^ (-(k : Int)) := by
  have hprod : a.value * (recip64 (2 ^ k)).value = x * 2 ^ (-(k : Int)) := by rw [ha, value_recip64_two_pow]
  rw [value_mul64 (hprod ▸ hx), hprod]

theorem mul_two_zpow_neg_le_one {k : Nat} (hn : n ≤ 2 ^ k) : (n : Rat) * 2 ^ (-(k : Int)) ≤ 1 := by
  rw [← two_pow_mul_two_zpow_neg k, mul_le_mul_right_iff (two_zpow_pos _), Rat.natCast_le_natCast]
  exact hn

theorem mul_two_zpow_neg_lt_one {k : Nat} (hn : n < 2 ^ k) : (n : Rat) * 2 ^ (-(k : Int)) < 1 := by
  rw [← two_pow_mul_two_zpow_neg k, Rat.mul_lt_mul_right (two_zpow_pos _), Rat.natCast_lt_natCast]
  exact hn

end Outputs

/-- A drawn word converts exactly (R79). -/
theorem value_ofNat64_toNat (w : Word) : (ofNat64 w.toNat).value = w.toNat :=
  value_ofNat64 (Nat.lt_trans w.isLt (by decide))

/-- The half that `real_open` adds is exact, and so is the sum (R82). -/
theorem value_add64_half (w : Word) :
    (add64 (ofNat64 w.toNat) (roundBinary64 1 2 0)).value = (2 * w.toNat + 1 : Nat) * 2 ^ (-(1 : Nat) : Int) := by
  have hhalf : (roundBinary64 1 2 0).value = 2 ^ (-(1 : Nat) : Int) := value_recip64_two_pow 1
  have hsum : (ofNat64 w.toNat).value + (roundBinary64 1 2 0).value =
      (2 * w.toNat + 1 : Nat) * 2 ^ (-(1 : Nat) : Int) := by
    have hnum : 2 * w.toNat + 1 = w.toNat * 2 ^ 1 + 1 := by omega
    rw [value_ofNat64_toNat, hhalf, hnum, Rat.natCast_add, Rat.natCast_mul, Rat.add_mul, Rat.mul_assoc,
      two_pow_mul_two_zpow_neg 1, Rat.mul_one, Rat.natCast_ofNat, Rat.one_mul]
  rw [value_add64 (hsum ▸ representable_mul_two_zpow (by have := w.isLt; omega) _), hsum]

/-- Settles O51: the word over `2^32` keeps its 32 bits, and the word is below `2^32`. -/
theorem halfOpenIsExact : Obligations.HalfOpenIsExact := by
  intro w
  have hvalue : (realHalfOpen w).value = w.toNat * 2 ^ (-(32 : Nat) : Int) :=
    value_mul64_recip64_two_pow (value_ofNat64_toNat w) 32
      (representable_mul_two_zpow (Nat.lt_trans w.isLt (by decide)) _)
  refine ⟨hvalue.trans (mul_two_zpow_neg _ 32), Binary64.value_nonneg _, ?_⟩
  rw [hvalue]
  exact mul_two_zpow_neg_lt_one w.isLt

/-- Settles O52: `2w + 1`, at least 1 and below `2^33`, over `2^33`. -/
theorem openIsExact : Obligations.OpenIsExact := by
  intro w
  have hlt : 2 * w.toNat + 1 < 2 ^ 33 := by have := w.isLt; omega
  have hpoint : ((2 * w.toNat + 1 : Nat) : Rat) * 2 ^ (-(1 : Nat) : Int) * 2 ^ (-(32 : Nat) : Int) =
      (2 * w.toNat + 1 : Nat) * 2 ^ (-(33 : Nat) : Int) := by
    rw [Rat.mul_assoc, ← two_zpow_add]
    rfl
  have hvalue : (realOpen w).value = (2 * w.toNat + 1 : Nat) * 2 ^ (-(33 : Nat) : Int) :=
    (value_mul64_recip64_two_pow (value_add64_half w) 32
      (hpoint ▸ representable_mul_two_zpow (Nat.lt_trans hlt (by decide)) _)).trans hpoint
  have hsum : ((2 * w.toNat + 1 : Nat) : Rat) = 2 * w.toNat + 1 := by rw [Rat.natCast_add, Rat.natCast_mul]; rfl
  refine ⟨hvalue.trans (hsum ▸ mul_two_zpow_neg _ 33), ?_, ?_⟩
  · rw [hvalue]
    exact Rat.mul_pos (Rat.natCast_pos.2 (Nat.succ_pos _)) (two_zpow_pos _)
  · rw [hvalue]
    exact mul_two_zpow_neg_lt_one hlt

/-- Settles O53: 27 bits above 26 bits are 53, so neither the product nor the sum rounds. -/
theorem real53IsExact : Obligations.Real53IsExact := by
  intro w1 w2
  have ha : (w1 >>> 5).toNat = w1.toNat / 32 := by rw [BitVec.toNat_ushiftRight, Nat.shiftRight_eq_div_pow]
  have hb : (w2 >>> 6).toNat = w2.toNat / 64 := by rw [BitVec.toNat_ushiftRight, Nat.shiftRight_eq_div_pow]
  have hlt : (w1 >>> 5).toNat * 67108864 + (w2 >>> 6).toNat < 2 ^ 53 := by
    have := w1.isLt
    have := w2.isLt
    omega
  have hhigh := value_mul64_natCast (value_ofNat64_toNat (w1 >>> 5)) (value_ofNat64 (n := 67108864) (by decide))
    (Nat.lt_of_le_of_lt (Nat.le_add_right ..) hlt)
  have hsum := value_add64_natCast hhigh (value_ofNat64_toNat (w2 >>> 6)) hlt
  have hvalue : (real53 w1 w2).value =
      ((w1 >>> 5).toNat * 67108864 + (w2 >>> 6).toNat : Nat) * 2 ^ (-(53 : Nat) : Int) :=
    value_mul64_recip64_two_pow hsum 53 (representable_mul_two_zpow hlt _)
  refine ⟨?_, Binary64.value_nonneg _, ?_⟩
  · rw [hvalue, mul_two_zpow_neg, Rat.natCast_add, Rat.natCast_mul, ha, hb]
    rfl
  · rw [hvalue]
    exact mul_two_zpow_neg_lt_one hlt

/-- Settles O54: before rounding the product is at most `(2^32 - 1)(2^32 + 1) / 2^64`, below 1, and rounding does not
pass 1. The two ends are evaluated. -/
theorem closedStaysInUnitInterval : Obligations.ClosedStaysInUnitInterval := by
  refine ⟨fun w => ⟨Binary64.value_nonneg _, ?_⟩, ?_, ?_⟩
  · have hrecip : recip64 4294967295 = { sig := 0x10000000100000, exp := -84 } := by decide
    have hvalue : (recip64 4294967295).value = (0x10000000100000 : Nat) * 2 ^ (-(84 : Nat) : Int) :=
      congrArg Binary64.value hrecip
    refine value_mul64_le (representable_natCast (n := 1) (by decide)) (by decide) ?_
    rw [value_ofNat64_toNat, hvalue, ← Rat.mul_assoc, ← Rat.natCast_mul]
    exact mul_two_zpow_neg_le_one (by have := w.isLt; omega)
  · have h : realClosed 0#32 = { sig := 0, exp := 0 } := by decide
    rw [h, Binary64.value_zero]
  · have h : realClosed 0xFFFFFFFF#32 = { sig := 2 ^ 52, exp := -52 } := by decide
    rw [h]
    exact two_pow_mul_two_zpow_neg 52

/-! ## The host's construction stopping at the first error (R87) -/

@[simp] theorem taken_stateVec (data : Word) (b : State) : (taken data b).stateVec = b.stateVec := rfl

@[simp] theorem taken_cursor (data : Word) (b : State) : (taken data b).cursor = b.cursor := rfl

/-- The state in which the host has taken the response of the error that left `s`. -/
def takenError (code : RspCode) (s : State) : State := deliver (responseWord code 0#32) (raise code s)

@[simp] theorem takenError_stateVec (code : RspCode) (s : State) : (takenError code s).stateVec = s.stateVec := rfl

@[simp] theorem takenError_cursor (code : RspCode) (s : State) : (takenError code s).cursor = s.cursor := rfl

/-- A checked call of a command that raises KEY_OVERFLOW. -/
theorem callChecked_of_keyOverflow {i : Instr} {s : State} (h : exec i s = .next (raise .keyOverflow s)) :
    callChecked i s = .error (.keyOverflow, takenError .keyOverflow s) := by
  rw [callChecked_error (call_of_exec (decode_encode i) h rfl) (by rw [codeField_responseWord]; decide),
    codeField_responseWord, if_pos rfl, takenError]

/-- A checked call of a command that raises INVALID_SEED. -/
theorem callChecked_of_invalidSeed {i : Instr} {s : State} (h : exec i s = .next (raise .invalidSeed s)) :
    callChecked i s = .error (.invalidSeed, takenError .invalidSeed s) := by
  rw [callChecked_error (call_of_exec (decode_encode i) h rfl) (by rw [codeField_responseWord]; decide),
    codeField_responseWord, if_neg (by decide), takenError]

/-- More keys than fit: the keys that fit are appended, the next one is refused, and no key writes STATE or CURSOR. -/
theorem pushKeys_of_no_room (keys : List Int) {s : State} (hmax : s.keyLen.toNat ≤ Config.keyMax)
    (h : Config.keyMax < s.keyLen.toNat + keys.length) :
    ∃ t, pushKeys keys s = .error (.keyOverflow, t) ∧ t.stateVec = s.stateVec ∧ t.cursor = s.cursor := by
  induction keys generalizing s with
  | nil => exact absurd h (Nat.not_lt.2 hmax)
  | cons key keys ih =>
    by_cases hfull : s.keyLen.toNat = Config.keyMax
    · exact ⟨_, pushKeys_error (callChecked_of_keyOverflow (exec_kpush_of_full hfull)) keys, rfl, rfl⟩
    · have hpush := callChecked_of_ok (exec_kpush_of_room (key := reduceValue key) hfull)
      have hlen : (taken 0#32 (appendKey (reduceValue key) s)).keyLen.toNat = s.keyLen.toNat + 1 :=
        keyLen_succ_toNat (by omega)
      rw [List.length_cons] at h
      obtain ⟨t, ht, hstate, hcursor⟩ := ih (s := taken 0#32 (appendKey (reduceValue key) s)) (by omega) (by omega)
      exact ⟨t, (pushKeys_ok hpush keys).trans ht, hstate, hcursor⟩

/-- Settles O57: after KCLR, which leaves KEYLEN 0, SEEDA finds no keys, or `pushKeys_of_no_room` ends the sequence
before it. -/
theorem keySequenceConstructorFails : Obligations.KeySequenceConstructorFails := by
  intro keys s
  have hclr : callChecked .kclr s = .ok (taken 0#32 (s.setKeyLen 0#16)) := callChecked_of_ok (exec_kclr s)
  have hempty : (taken 0#32 (s.setKeyLen 0#16)).keyLen.toNat = 0 := rfl
  refine ⟨?_, fun hlong => ?_⟩
  · rintro rfl
    have hseeda := callChecked_of_invalidSeed
      (exec_seeda_of_empty (s := taken 0#32 (s.setKeyLen 0#16)) (taken_keyLen _ _))
    refine ⟨takenError .invalidSeed (taken 0#32 (s.setKeyLen 0#16)), ?_, ?_, ?_⟩
    · simp only [constructKeys, hclr, pushKeys_nil, hseeda]
    · rw [takenError_stateVec, taken_stateVec, State.setKeyLen_stateVec]
    · rw [takenError_cursor, taken_cursor, State.setKeyLen_cursor]
  · obtain ⟨t, ht, hstate, hcursor⟩ := pushKeys_of_no_room keys (s := taken 0#32 (s.setKeyLen 0#16))
      (by omega) (by omega)
    exact ⟨t, by simp only [constructKeys, hclr, ht], hstate, hcursor⟩

end Sys2Proof.Machine
end

section
/-!
PROOFS of 60_exceptions.md: the branches of an event that reset, hold or idle, and that every event answers a next state.
From these the statements on reset, on the idle block and on runs that never stop.
-/

namespace Sys2Proof.Machine

/-! ## An event at the port, by the branch it takes: reset, a held response, nothing offered (R94, R104, R109) -/

theorem step_of_no_inputs {s : State} (h : s.inputs = []) : step s = .next s := by
  simp only [step, nextEvent, h]

theorem portEvent_of_reset {e : PortIn} (hrst : e.rst = true) (s : State) : portEvent e s = .next (applyReset s) :=
  if_pos hrst

theorem portEvent_of_untaken {e : PortIn} {s : State} {r : Token} (hrst : e.rst = false) (hr : s.rsp = some r)
    (hready : e.rspReady = false) : portEvent e s = .next s := by
  simp [portEvent, hrst, hr, hready]

theorem portEvent_of_idle {e : PortIn} {s : State} (hrst : e.rst = false) (hr : s.rsp = none) (hcmd : e.cmd = none) :
    portEvent e s = .next s := by
  simp [portEvent, hrst, hr, hcmd]

/-- Settles O19: reset is the first branch of an event, and `applyReset` has the values claimed and keeps the host's
fields. -/
theorem stepReset : Obligations.StepReset := by
  intro s e rest hin hrst
  have hstep : step s = .next (applyReset (s.setInputs rest)) :=
    (step_of_inputs hin).trans (portEvent_of_reset hrst _)
  exact ⟨_, hstep, applyReset_cursor _, applyReset_keyLen _, applyReset_rsp _, applyReset_inputs _,
    applyReset_delivered _, applyReset_cmdIdx _⟩

/-- Settles O20: the event is the idle branch, or there is none. -/
theorem stepIdle : Obligations.StepIdle := by
  refine ⟨fun s e rest hin hrst hr hcmd => ?_, fun s => step_of_no_inputs⟩
  calc step s
      = portEvent e (s.setInputs rest) := step_of_inputs hin
    _ = .next (s.setInputs rest) := portEvent_of_idle hrst hr hcmd

/-! ## Every event answers a next state (R88, R93) -/

/-- A token runs a command, which completes, or is illegal and raises its error. -/
theorem runToken_next (t : Token) (s : State) : ∃ s', runToken t s = .next s' := by
  cases hdec : decode t with
  | command i =>
    rw [runToken_of_command hdec]
    exact exec_next i s
  | illegal why => exact ⟨_, runToken_of_illegal hdec s⟩

theorem portEvent_next (e : PortIn) (s : State) : ∃ s', portEvent e s = .next s' := by
  cases hrst : e.rst with
  | true => exact ⟨_, portEvent_of_reset hrst s⟩
  | false =>
    cases hr : s.rsp with
    | some r =>
      cases hready : e.rspReady with
      | true => exact ⟨_, portEvent_of_transfer hrst hr hready⟩
      | false => exact ⟨_, portEvent_of_untaken hrst hr hready⟩
    | none =>
      cases hcmd : e.cmd with
      | some offered =>
        rw [portEvent_of_token hrst hr hcmd]
        exact runToken_next ..
      | none => exact ⟨_, portEvent_of_idle hrst hr hcmd⟩

theorem step_next (s : State) : ∃ s', step s = .next s' := by
  cases hin : s.inputs with
  | nil => exact ⟨s, step_of_no_inputs hin⟩
  | cons e rest =>
    rw [step_of_inputs hin]
    exact portEvent_next ..

/-- Settles O21: induction on the number of steps, from every state, over `step_next`. -/
theorem everyRunGoesOn : Obligations.EveryRunGoesOn := by
  intro s k
  induction k generalizing s with
  | zero => exact ⟨s, rfl⟩
  | succ k ih =>
    obtain ⟨s', hs'⟩ := step_next s
    rw [run_succ_of_step hs']
    exact ih s'

end Sys2Proof.Machine
end

section
/-!
PROOFS of 70_reset_and_hazards.md: a response the host does not take holds the block, and the latency case of a token
with the work behind it.
-/

namespace Sys2Proof.Machine

/-! ## The held response (R109) -/

/-- Settles O18: the event is the branch that holds the response, which writes nothing after the input is consumed. -/
theorem stepHoldsUntakenResponse : Obligations.StepHoldsUntakenResponse := by
  intro s e rest r hin hrst hr hready
  calc step s
      = portEvent e (s.setInputs rest) := step_of_inputs hin
    _ = .next (s.setInputs rest) := portEvent_of_untaken hrst hr hready

/-! ## The latency case of a token, and its work (R110, R117) -/

theorem latencyCase_of_illegal {t : Token} {why : IllegalToken} (h : decode t = .illegal why) (s : State) :
    latencyCase t s = .simple := by
  simp only [latencyCase, h]

/-- A draw of either kind has the case its cursor gives. -/
theorem latencyCase_of_draw {t : Token} (h : decode t = .command .draw ∨ decode t = .command .draw31) (s : State) :
    latencyCase t s = drawLatencyCase s := by
  obtain h | h := h <;> simp only [latencyCase, h]

theorem drawLatencyCase_of_le {s : State} (h : s.cursor.toNat ≤ 623) : drawLatencyCase s = .draw := by
  have hne : s.cursor ≠ 625#10 := fun h625 => by simp [h625] at h
  rw [drawLatencyCase, if_neg hne, if_neg (Nat.not_le.2 (Nat.lt_succ_of_le h))]

theorem drawLatencyCase_of_eq_624 {s : State} (h : s.cursor.toNat = 624) : drawLatencyCase s = .drawTwist := by
  have hne : s.cursor ≠ 625#10 := fun h625 => by simp [h625] at h
  rw [drawLatencyCase, if_neg hne, if_pos (Nat.le_of_eq h.symm)]

theorem drawLatencyCase_of_eq_625 {s : State} (h : s.cursor.toNat = 625) : drawLatencyCase s = .drawSeed :=
  if_pos (BitVec.eq_of_toNat_eq h)

/-- The work of a draw, by the cursor it finds: none, the twist, or the fallback seeding and the twist. -/
theorem workSteps_drawLatencyCase {s : State} (h : s.cursor.toNat ≤ 625) : workSteps (drawLatencyCase s) =
    if s.cursor.toNat ≤ 623 then 0 else if s.cursor.toNat = 624 then 624 else 623 + 624 := by
  by_cases h623 : s.cursor.toNat ≤ 623
  · rw [if_pos h623, drawLatencyCase_of_le h623, workSteps]
  · by_cases h624 : s.cursor.toNat = 624
    · rw [if_neg h623, if_pos h624, drawLatencyCase_of_eq_624 h624, workSteps]
    · rw [if_neg h623, if_neg h624, drawLatencyCase_of_eq_625 (by omega), workSteps]

/-- In each case the model counts one clock edge more than the open number of that case. -/
theorem one_le_latency (c : LatencyCase) : 1 ≤ latency c := by
  cases c <;> exact Nat.le_add_left 1 _

/-- Settles O50: opcodes 5 and 6 decode to the two draws, whose case and work the cursor gives. -/
theorem latencyShowsTwistPoints : Obligations.LatencyShowsTwistPoints := by
  refine ⟨fun s arg opc hcursor hopc => ?_, fun t s why h => latencyCase_of_illegal h s, one_le_latency⟩
  have hdraw : decode (arg ++ 0#24 ++ opc) = .command .draw ∨ decode (arg ++ 0#24 ++ opc) = .command .draw31 := by
    obtain rfl | rfl := hopc
    · exact .inl (decode_append arg 0x05#8)
    · exact .inr (decode_append arg 0x06#8)
  rw [latencyCase_of_draw hdraw, workSteps_drawLatencyCase hcursor]

end Sys2Proof.Machine
end
